-- ==== Sys2Proof/Word.lean ====
section
/-!
DEFINITION. The widths of the CORE (spec/00_scope.md R5): every value is an unsigned bit vector
(R6), and arithmetic on it wraps at its width.
-/

namespace Sys2Proof

/-- A register value, a memory byte, `nn`: 8 bits. -/
abbrev Byte := BitVec 8

/-- An instruction word, PC, I, a stack entry: 16 bits. -/
abbrev Word := BitVec 16

/-- A register index, `n`, a selector nibble: 4 bits. -/
abbrev Nibble := BitVec 4

/-- The 12-bit address operand `nnn`. -/
abbrev Addr := BitVec 12

/-- The key-state KEY[15:0], one bit a key (spec/10_state.md R29, R45). -/
abbrev Keys := BitVec 16

end Sys2Proof
end

