-- ==== Sys2Proof/Config.lean ====
section
/-!
DEFINITION. What an implementation of the CORE fixes (spec/00_scope.md R5): the fixed sizes, the
OPEN parameters, and the free value RAND. An OPEN parameter is a constant with no body, so a claim
holds whatever its value is.
-/

namespace Sys2Proof

/-- The number of bytes of memory, addresses 0x000-0xFFF (R5; 20_memory.md R57). -/
def Config.memSize : Nat := 0x1000

/-- The first address past the font region 0x000-0x04F (20_memory.md R57). -/
def Config.fontEnd : Nat := 0x50

/-- Where a program image is loaded and where PC starts (R5; 70_reset_and_hazards.md R221). -/
def Config.programBase : Nat := 0x200

/-- The longest program image, MaxImage (R5; 70_reset_and_hazards.md R222). -/
def Config.maxImage : Nat := 0xDFF

/-- FONT, OPEN: the 80 bytes of the font table, byte `a` at address `a` (10_state.md R27; decision
D15; assumption 5). No byte of it is fixed by the model. -/
opaque Config.font : Nat → Byte

/-- The part of IPF above 1; see `Config.ipf` (assumption 6). -/
opaque Config.ipfAboveOne : Nat

/-- IPF, OPEN: the instructions of one frame's batch, "a natural number at least 1" (R5; decision
D16; assumption 6). -/
def Config.ipf : Nat := Config.ipfAboveOne + 1

/-- The key an implementation's WAITK would pick among the pressed ones, OPEN (R5; decision D10;
assumption 7). `Machine.waitKeySelect` holds it to the spec's limit that the key is pressed. -/
opaque Config.waitKeyChoice : Keys → Nibble

/-- RAND: the free byte of the `k`-th draw since power-on (10_state.md R47; decision D11;
assumption 8). -/
opaque Config.rand : Nat → Byte

/-- The reference value of FONT, glyph `d` at index `5d` (10_state.md R27, marked there as general
knowledge). The machine does not use it: `Config.font` stays open (assumption 5). -/
def Config.fontReference : List Byte :=
  [0xF0, 0x90, 0x90, 0x90, 0xF0] ++ [0x20, 0x60, 0x20, 0x20, 0x70] ++
  [0xF0, 0x10, 0xF0, 0x80, 0xF0] ++ [0xF0, 0x10, 0xF0, 0x10, 0xF0] ++
  [0x90, 0x90, 0xF0, 0x10, 0x10] ++ [0xF0, 0x80, 0xF0, 0x10, 0xF0] ++
  [0xF0, 0x80, 0xF0, 0x90, 0xF0] ++ [0xF0, 0x10, 0x20, 0x40, 0x40] ++
  [0xF0, 0x90, 0xF0, 0x90, 0xF0] ++ [0xF0, 0x90, 0xF0, 0x10, 0xF0] ++
  [0xF0, 0x90, 0xF0, 0x90, 0x90] ++ [0xE0, 0x90, 0xE0, 0x90, 0xE0] ++
  [0xF0, 0x80, 0x80, 0x80, 0xF0] ++ [0xE0, 0x90, 0x90, 0x90, 0xE0] ++
  [0xF0, 0x80, 0xF0, 0x80, 0xF0] ++ [0xF0, 0x80, 0xF0, 0x80, 0x80]

/-- The implementation's font is the reference font: a premise for claims about glyphs. -/
def Config.FontIsReference : Prop :=
  ∀ a < Config.fontEnd, Config.fontReference[a]? = some (Config.font a)

end Sys2Proof
end

