-- ==== Sys2Proof/Machine/State.lean ====
section
/-!
DEFINITION. The state of the CORE (spec/10_state.md), plain data, and its value right after reset
(R37); the reasons a step could stop.
-/

namespace Sys2Proof.Machine

/-- Memory as the cells that differ from the reset contents, in rising order of address
(assumption 13). `Memory.unlisted` says what any other address reads as. -/
abbrev Memory := List Host.Cell

/-- FB: 32 rows of 64 pixels; pixel (col, row) is bit `col` of row `row` (10_state.md R30;
assumption 12). -/
abbrev Framebuffer := Vector (BitVec 64) 32

/-- The halt causes (60_exceptions.md R181). -/
inductive HaltCause where
  /-- No halt has happened. -/
  | none
  /-- A fetch with PC > 0xFFE. -/
  | fetchBounds
  /-- CALL with SP = 16. -/
  | stackOverflow
  /-- RET with SP = 0. -/
  | stackUnderflow
  /-- DRW, BCD, STREGS or LDREGS at an address above 0xFFF. -/
  | memBounds
  /-- BCD or STREGS writing the font region. -/
  | fontWrite
  /-- SKP or SKNP with V[x] above 0xF. -/
  | keyRange
  deriving DecidableEq, Repr

/-- The engine states ES (10_state.md R33). -/
inductive EngineState where
  | reset
  | running
  | halted
  | terminated
  deriving DecidableEq, Repr

/-- What the outside world presents to the CORE (10_state.md R45; assumption 2). -/
inductive Input where
  /-- The RESET event. -/
  | reset
  /-- LOAD with a program image. -/
  | load (image : List Byte)
  /-- LOAD_FAIL: the host could not read the file. -/
  | loadFail
  /-- One poll: the KEY levels found, whether QUIT was seen, and whether a FRAME event is present at
  the boundary check after it (60_exceptions.md R190). -/
  | poll (keys : Keys) (quit frame : Bool)
  deriving DecidableEq, Repr

/-- The machine state (10_state.md). -/
structure State where
  /-- V0-VF (R20). -/
  v : Vector Byte 16
  /-- The index register (R24). -/
  i : Word
  /-- The program counter (R25). -/
  pc : Word
  /-- The stack pointer, the next free slot, 0..16 (R26; assumption 11). -/
  sp : Fin 17
  /-- The return stack (R26). -/
  stack : Vector Word 16
  /-- Memory (R27). -/
  mem : Memory
  /-- The delay timer (R28). -/
  dt : Byte
  /-- The sound timer (R28). -/
  st : Byte
  /-- KEY, as sampled at the last poll (R29). -/
  key : Keys
  /-- The framebuffer (R30). -/
  fb : Framebuffer
  /-- The redraw-dirty flag (R31). -/
  dirty : Bool
  /-- The tone output (R32). -/
  tone : Bool
  /-- The engine state (R33). -/
  es : EngineState
  /-- HALT_CAUSE (R34). -/
  haltCause : HaltCause
  /-- HALT_PC (R34). -/
  haltPc : Word
  /-- HALT_ADDR (R34). -/
  haltAddr : BitVec 17
  /-- BUDGET, the instructions still to execute in this batch (R35). -/
  budget : Nat
  /-- The model's own: what the outside world will present, oldest first (assumption 2). -/
  inputs : List Input
  /-- The model's own: how many RAND values have been drawn (assumption 8). -/
  draws : Nat
  /-- The model's own: how many PRESENT events have been raised (assumption 16). -/
  presents : Nat
  /-- The model's own: the picture of the last PRESENT (assumption 16). -/
  presented : Framebuffer
  /-- The model's own: a load failure has been reported to the host (assumption 17). -/
  loadFailed : Bool
  deriving DecidableEq, Repr

/-- Why a step stops with a fault. There is no constructor and so no fault: the only stops of this
hardware are its halts, whose entry the spec describes whole, and they are next states
(60_exceptions.md R180; assumption 9). Safe: no claim can rest on a fault. -/
inductive Fault where
  deriving DecidableEq, Repr

/-- Why a step has no meaning. -/
inductive Refusal where
  /-- Raised by `exec` alone, in the arm of an instruction that has no meaning yet. No arm does:
  every instruction of the opcode table has its meaning. Safe: the model would stop where the
  hardware goes on. -/
  | notModelled (mnemonic : String)
  deriving DecidableEq, Repr

/-- The state after reset and before the program is loaded (10_state.md R37;
70_reset_and_hazards.md R220 steps 1-5). Memory lists nothing, so it holds the reset contents. -/
def State.reset : State where
  v := Vector.replicate 16 0#8
  i := 0#16
  pc := 0x200#16
  sp := 0
  stack := Vector.replicate 16 0#16
  mem := []
  dt := 0#8
  st := 0#8
  key := 0#16
  fb := Vector.replicate 32 0#64
  dirty := false
  tone := false
  es := .reset
  haltCause := .none
  haltPc := 0#16
  haltAddr := 0#17
  budget := 0
  inputs := []
  draws := 0
  presents := 0
  presented := Vector.replicate 32 0#64
  loadFailed := false

end Sys2Proof.Machine
end

