-- ==== Sys2Proof/Machine/Ops.lean ====
section
/-!
DEFINITION. The named operations over memory, registers, the stack and the framebuffer, the access
check, and entering a halt (spec/00_scope.md R7; 20_memory.md; 60_exceptions.md R180).
-/

namespace Sys2Proof.Machine

/-! ## Memory -/

/-- What an address that memory does not list reads as: the reset contents, FONT in the font region
and 0x00 above it (10_state.md R37; assumption 13). -/
def Memory.unlisted (a : Nat) : Byte :=
  if a < Config.fontEnd then Config.font a else 0#8

/-- MemRead (20_memory.md R50). Callers check the address first. -/
def Memory.read : Memory → Nat → Byte
  | [], a => Memory.unlisted a
  | (b, w) :: rest, a => if a = b then w else Memory.read rest a

/-- MemWrite (20_memory.md R51), keeping the canonical form. Callers check the address first. -/
def Memory.write : Memory → Nat → Byte → Memory
  | [], a, v => if v = Memory.unlisted a then [] else [(a, v)]
  | (b, w) :: rest, a, v =>
    if a < b then
      if v = Memory.unlisted a then (b, w) :: rest else (a, v) :: (b, w) :: rest
    else if a = b then
      if v = Memory.unlisted a then rest else (a, v) :: rest
    else (b, w) :: Memory.write rest a v

/-- The canonical form from address `lo` on: addresses strictly rising and inside memory, no cell
equal to what its address would read as unlisted. -/
def Memory.wfFrom : Nat → Memory → Bool
  | _, [] => true
  | lo, (a, v) :: rest =>
    decide (lo ≤ a) && decide (a < Config.memSize) && decide (v ≠ Memory.unlisted a) &&
      Memory.wfFrom (a + 1) rest

/-- The canonical form of memory. -/
def Memory.wf (m : Memory) : Bool := Memory.wfFrom 0 m

/-- The bytes placed at consecutive addresses from `a` (70_reset_and_hazards.md R221). -/
def Memory.place (m : Memory) (a : Nat) : List Byte → Memory
  | [] => m
  | b :: bs => (Memory.place m (a + 1) bs).write a b

/-- Memory with every address from `a` up at its reset contents. -/
def Memory.clearFrom (m : Memory) (a : Nat) : Memory := m.filter fun c => decide (c.1 < a)

/-- The word at addresses `a` and `a + 1`, big-endian: the byte at `a` is bits 15-8
(20_memory.md R52, R58). -/
def Memory.readWord (m : Memory) (a : Nat) : Word := m.read a ++ m.read (a + 1)

/-! ## The access check (20_memory.md R53) -/

/-- What an instruction does at the addresses it reaches through I (20_memory.md R60). -/
inductive Access where
  | read
  | write
  deriving DecidableEq, Repr

/-- Why an access at one address fails, if it does (R53). -/
def addressFault (kind : Access) (a : Nat) : Option HaltCause :=
  if a > 0xFFF then some .memBounds
  else if kind = .write ∧ a ≤ 0x04F then some .fontWrite
  else none

/-- The first failing address among `a, a + 1, …` (`n` of them), with its cause (R53). -/
def firstFailure (kind : Access) (a : Nat) : Nat → Option (HaltCause × Nat)
  | 0 => none
  | n + 1 =>
    match addressFault kind a with
    | some cause => some (cause, a)
    | none => firstFailure kind (a + 1) n

/-! ## Registers -/

/-- `V[x]` (10_state.md R20). -/
def State.reg (s : State) (x : Nibble) : Byte := s.v[x.toNat]

/-- `V[x] <- b`. -/
def State.setReg (s : State) (x : Nibble) (b : Byte) : State :=
  { s with v := s.v.set x.toNat b }

/-- `MemWrite(a, 1, b)` on the state. -/
def State.store (s : State) (a : Nat) (b : Byte) : State := { s with mem := s.mem.write a b }

/-- `I <- w`. -/
def State.setI (s : State) (w : Word) : State := { s with i := w }

/-- `PC <- w`. -/
def State.setPc (s : State) (w : Word) : State := { s with pc := w }

/-- Fetch's advance, `PC <- mod16(PC + 2)` (20_memory.md R55). -/
def State.advance (s : State) : State := s.setPc (s.pc + 2#16)

/-- A skip: a further `PC <- mod16(PC + 2)` when the condition holds (40_control_flow.md R110). -/
def State.skipIf (s : State) (cond : Bool) : State := if cond then s.setPc (s.pc + 2#16) else s

/-! ## The return stack (10_state.md R26) -/

/-- Pushes a return address; `none` when SP = 16. -/
def State.push (s : State) (a : Word) : Option State :=
  if h : s.sp.val < 16 then
    some { s with stack := s.stack.set s.sp.val a h, sp := ⟨s.sp.val + 1, by omega⟩ }
  else none

/-- Pops a return address; the slot keeps its value; `none` when SP = 0. -/
def State.pop (s : State) : Option (Word × State) :=
  if h : 0 < s.sp.val then
    some (s.stack[s.sp.val - 1]'(by omega), { s with sp := ⟨s.sp.val - 1, by omega⟩ })
  else none

/-! ## The framebuffer (10_state.md R30) -/

/-- FB[col][row]. -/
def Framebuffer.pixel (fb : Framebuffer) (col : Fin 64) (row : Fin 32) : Bool :=
  fb[row.val].getLsbD col.val

/-- `FB[col][row] <- FB[col][row] XOR 1`. -/
def Framebuffer.flip (fb : Framebuffer) (col : Fin 64) (row : Fin 32) : Framebuffer :=
  fb.set row.val (fb[row.val] ^^^ BitVec.twoPow 64 col.val)

/-- Every pixel off. -/
def Framebuffer.blank : Framebuffer := Vector.replicate 32 0#64

/-! ## Codes of the output signals -/

/-- The code of HALT_CAUSE (60_exceptions.md R181). -/
def HaltCause.code : HaltCause → BitVec 4
  | .none => 0
  | .fetchBounds => 1
  | .stackOverflow => 2
  | .stackUnderflow => 3
  | .memBounds => 4
  | .fontWrite => 5
  | .keyRange => 6

/-- The code of ES (10_state.md R33). -/
def EngineState.code : EngineState → BitVec 2
  | .reset => 0
  | .running => 1
  | .halted => 2
  | .terminated => 3

/-! ## Halting (60_exceptions.md R180) -/

/-- The halt entry: PC at the halting instruction (or the failed fetch), the halt record written,
ES <- HALTED, TONE <- 0, BUDGET <- 0. Nothing else changes, so a caller passes a state in which the
instruction has done nothing yet. -/
def State.haltAt (s : State) (pc0 : Word) (cause : HaltCause) (addr : Nat) : State :=
  { s with
    pc := pc0
    haltCause := cause
    haltPc := pc0
    haltAddr := BitVec.ofNat 17 addr
    es := .halted
    tone := false
    budget := 0 }

/-- `raise Halt(cause, addr)` of an executing instruction: PC has been advanced by fetch and goes
back to the instruction's own address (60_exceptions.md R188; assumption 20). -/
def State.raise (s : State) (cause : HaltCause) (addr : Nat) : State :=
  s.haltAt (s.pc - 2#16) cause addr

/-- An instruction that accesses `I .. I + n - 1`: it halts at the first failing address and leaves
no other effect, or has its effect `done` (20_memory.md R53). -/
def guarded (kind : Access) (n : Nat) (s done : State) : State :=
  match firstFailure kind s.i.toNat n with
  | some (cause, a) => s.raise cause a
  | none => done

end Sys2Proof.Machine
end

