-- ==== Sys2Proof/Machine/Operands.lean ====
section
/-!
DEFINITION. The operand forms (spec/30_encoding.md R82): zero-extended immediates, the address
I + k, the key index V[x], the key that WAITK takes, and the multi-byte transfers through I.
-/

namespace Sys2Proof.Machine

/-- `zext_16(nnn)` (R82). -/
def addrOperand (nnn : Addr) : Word := nnn.setWidth 16

/-- `zext_16` of a byte. -/
def byteAsWord (b : Byte) : Word := b.setWidth 16

/-- The address `I + k`, with no wrap (20_memory.md R53). -/
def State.indexed (s : State) (k : Nat) : Nat := s.i.toNat + k

/-- The bits of a sprite row: pixel `c` from the left is bit `7 - c` (43_display.md R157). -/
def spriteBit (b : Byte) (c : Nat) : Bool := b.getLsbD (7 - c)

/-! ## Keys (44_timers_keys.md) -/

/-- The key that `V[x]` names; `none` above 0xF (R171). -/
def State.keyIndex (s : State) (x : Nibble) : Option Nibble :=
  if (s.reg x).toNat > 0xF then none else some ((s.reg x).setWidth 4)

/-- KEY[k] = 1. -/
def keyPressed (keys : Keys) (k : Nibble) : Bool := keys.getLsbD k.toNat

/-- The lowest pressed key, the reference value of WaitKeySelect (R168); 0 where none is pressed. -/
def lowestPressed (keys : Keys) : Nibble :=
  BitVec.ofNat 4 (((List.range 16).find? fun k => keys.getLsbD k).getD 0)

/-- WaitKeySelect (R168): the implementation's choice where that key is pressed. The spec admits
only functions that return a pressed key, so another choice is replaced by the reference one
(assumption 7). -/
def waitKeySelect (keys : Keys) : Nibble :=
  if keyPressed keys (Config.waitKeyChoice keys) then Config.waitKeyChoice keys
  else lowestPressed keys

/-! ## Transfers through I (42_index_memory.md) -/

/-- `MemWrite(base + k, 1, V[k])` for `k = 0 .. n - 1`. -/
def storeRegs (base : Nat) : Nat → State → State
  | 0, s => s
  | k + 1, s =>
    let done := storeRegs base k s
    done.store (base + k) (done.reg (BitVec.ofNat 4 k))

/-- `V[k] <- MemRead(base + k, 1)` for `k = 0 .. n - 1`. -/
def loadRegs (base : Nat) : Nat → State → State
  | 0, s => s
  | k + 1, s =>
    let done := loadRegs base k s
    done.setReg (BitVec.ofNat 4 k) (done.mem.read (base + k))

/-- The decimal digits of a byte, hundreds first (R143). -/
def bcdDigits (b : Byte) : Byte × Byte × Byte :=
  (BitVec.ofNat 8 (b.toNat / 100), BitVec.ofNat 8 (b.toNat / 10 % 10), BitVec.ofNat 8 (b.toNat % 10))

end Sys2Proof.Machine
end

