-- ==== Sys2Proof/Machine/Flags.lean ====
section
/-!
DEFINITION. The flag conditions and the write of VF (spec/10_state.md R21-R23; 41_alu.md R120).
-/

namespace Sys2Proof.Machine

/-- Carry: the unsigned sum exceeds 255 (41_alu.md R120, R129). -/
def carry (a b : Byte) : Bool := decide (a.toNat + b.toNat > 255)

/-- No borrow: the minuend is at least the subtrahend (41_alu.md R120, R130, R132). -/
def noBorrow (minuend subtrahend : Byte) : Bool := decide (minuend.toNat ≥ subtrahend.toNat)

/-- The bit a right shift drops (41_alu.md R131). -/
def lowBit (a : Byte) : Bool := a.getLsbD 0

/-- The bit a left shift drops (41_alu.md R133). -/
def highBit (a : Byte) : Bool := a.getLsbD 7

/-- The index sum lies above 0xFFF (42_index_memory.md R141). -/
def indexOverflow (sum : Nat) : Bool := decide (sum > 0xFFF)

/-- A flag as the value of VF: 1 or 0, never left unchanged (10_state.md R21). -/
def flagByte (f : Bool) : Byte := if f then 1#8 else 0#8

/-- `VF <- f`. -/
def State.setFlag (s : State) (f : Bool) : State := s.setReg 0xF#4 (flagByte f)

/-- A flag-setting register operation: the data result to Vx first, the flag to VF second, so that
the flag is final for x = 15 (10_state.md R23; 41_alu.md R123). -/
def State.setRegFlag (s : State) (x : Nibble) (result : Byte) (f : Bool) : State :=
  (s.setReg x result).setFlag f

end Sys2Proof.Machine
end

