-- ==== Sys2Proof/Machine/ControlFlow.lean ====
section
/-!
DEFINITION. Control flow and the no-op encodings (spec/40_control_flow.md). Each meaning runs on
the state that fetch has advanced: `s.pc` is the address of the instruction plus 2
(00_scope.md R8).
-/

namespace Sys2Proof.Machine

/-- SYS: nothing beyond fetch's advance (R100). -/
def execSys (s : State) : Host.Outcome State Fault Refusal := .next s

/-- NOP8: nothing beyond fetch's advance (R101). -/
def execNop8 (s : State) : Host.Outcome State Fault Refusal := .next s

/-- NOPE: nothing beyond fetch's advance (R101). -/
def execNope (s : State) : Host.Outcome State Fault Refusal := .next s

/-- NOPF: nothing beyond fetch's advance (R101). -/
def execNopf (s : State) : Host.Outcome State Fault Refusal := .next s

/-- JP nnn (R102). -/
def execJp (nnn : Addr) (s : State) : Host.Outcome State Fault Refusal :=
  .next (s.setPc (addrOperand nnn))

/-- RET (R103). -/
def execRet (s : State) : Host.Outcome State Fault Refusal :=
  match s.pop with
  | some (a, popped) => .next (popped.setPc a)
  | none => .next (s.raise .stackUnderflow 0)

/-- CALL nnn (R104). -/
def execCall (nnn : Addr) (s : State) : Host.Outcome State Fault Refusal :=
  match s.push s.pc with
  | some pushed => .next (pushed.setPc (addrOperand nnn))
  | none => .next (s.raise .stackOverflow 16)

/-- SE Vx, nn (R105). -/
def execSeqi (x : Nibble) (nn : Byte) (s : State) : Host.Outcome State Fault Refusal :=
  .next (s.skipIf (s.reg x == nn))

/-- SNE Vx, nn (R106). -/
def execSnei (x : Nibble) (nn : Byte) (s : State) : Host.Outcome State Fault Refusal :=
  .next (s.skipIf (s.reg x != nn))

/-- SE Vx, Vy (R107). -/
def execSeqr (x y : Nibble) (s : State) : Host.Outcome State Fault Refusal :=
  .next (s.skipIf (s.reg x == s.reg y))

/-- SNE Vx, Vy (R108). -/
def execSner (x y : Nibble) (s : State) : Host.Outcome State Fault Refusal :=
  .next (s.skipIf (s.reg x != s.reg y))

/-- JP V0, nnn (R109). -/
def execJpv0 (nnn : Addr) (s : State) : Host.Outcome State Fault Refusal :=
  .next (s.setPc (byteAsWord (s.reg 0#4) + addrOperand nnn))

end Sys2Proof.Machine
end

