-- ==== Sys2Proof/Machine/Display.lean ====
section
/-!
DEFINITION. Display operations (spec/43_display.md).
-/

namespace Sys2Proof.Machine

/-- CLS: DIRTY is set even when the screen was already clear (R155). -/
def execCls (s : State) : Host.Outcome State Fault Refusal :=
  .next { s with fb := Framebuffer.blank, dirty := true }

/-- What DRW's loop carries: the framebuffer, `collide` and `changed` (R158). -/
structure Blit where
  fb : Framebuffer
  collide : Bool
  changed : Bool
  deriving DecidableEq, Repr

/-- The column of sprite pixel `c` from the origin `x` (R156). -/
def spriteCol (x : Byte) (c : Nat) : Fin 64 := Fin.ofNat 64 (x.toNat + c)

/-- The row of sprite row `r` from the origin `y` (R156). -/
def spriteRow (y : Byte) (r : Nat) : Fin 32 := Fin.ofNat 32 (y.toNat + r)

/-- The loop body of R158 for pixel `c` of row `r`, whose byte is `b`. -/
def blitPixel (x y b : Byte) (r : Nat) (acc : Blit) (c : Nat) : Blit :=
  if spriteBit b c then
    { fb := acc.fb.flip (spriteCol x c) (spriteRow y r)
      collide := acc.collide || acc.fb.pixel (spriteCol x c) (spriteRow y r)
      changed := true }
  else acc

/-- The inner loop of R158, `c = 0 .. 7`. -/
def blitRow (x y b : Byte) (r : Nat) (acc : Blit) : Blit :=
  (List.range 8).foldl (blitPixel x y b r) acc

/-- The outer loop of R158, `r = 0 .. n - 1`. -/
def blitRows (mem : Memory) (base : Nat) (x y : Byte) : Nat → Blit → Blit
  | 0, acc => acc
  | r + 1, acc => blitRow x y (mem.read (base + r)) r (blitRows mem base x y r acc)

/-- DRW Vx, Vy, n: the coordinates are latched before VF is written (R158). -/
def execDrw (x y n : Nibble) (s : State) : Host.Outcome State Fault Refusal :=
  let out := blitRows s.mem s.i.toNat (s.reg x) (s.reg y) n.toNat ⟨s.fb, false, false⟩
  .next (guarded .read n.toNat s
    ({ s with fb := out.fb, dirty := s.dirty || out.changed }.setFlag out.collide))

end Sys2Proof.Machine
end

