-- ==== Sys2Proof/Machine/IndexMemory.lean ====
section
/-!
DEFINITION. Index register and memory operations (spec/42_index_memory.md).
-/

namespace Sys2Proof.Machine

/-- LD I, nnn (R140). -/
def execLdidx (nnn : Addr) (s : State) : Host.Outcome State Fault Refusal :=
  .next (s.setI (addrOperand nnn))

/-- ADD I, Vx (R141). -/
def execAddidx (x : Nibble) (s : State) : Host.Outcome State Fault Refusal :=
  let sum := s.i.toNat + (s.reg x).toNat
  .next ((s.setI (BitVec.ofNat 16 sum)).setFlag (indexOverflow sum))

/-- LD F, Vx (R142). -/
def execFont (x : Nibble) (s : State) : Host.Outcome State Fault Refusal :=
  .next (s.setI (BitVec.ofNat 16 (5 * (s.reg x).toNat)))

/-- LD B, Vx (R143). -/
def execBcd (x : Nibble) (s : State) : Host.Outcome State Fault Refusal :=
  let d := bcdDigits (s.reg x)
  .next (guarded .write 3 s
    (((s.store (s.indexed 0) d.1).store (s.indexed 1) d.2.1).store (s.indexed 2) d.2.2))

/-- LD [I], Vx (R144). -/
def execStregs (x : Nibble) (s : State) : Host.Outcome State Fault Refusal :=
  .next (guarded .write (x.toNat + 1) s
    ((storeRegs s.i.toNat (x.toNat + 1) s).setI (BitVec.ofNat 16 (s.indexed (x.toNat + 1)))))

/-- LD Vx, [I] (R145). -/
def execLdregs (x : Nibble) (s : State) : Host.Outcome State Fault Refusal :=
  .next (guarded .read (x.toNat + 1) s
    ((loadRegs s.i.toNat (x.toNat + 1) s).setI (BitVec.ofNat 16 (s.indexed (x.toNat + 1)))))

end Sys2Proof.Machine
end

