-- ==== Sys2Proof/Machine/TimersKeys.lean ====
section
/-!
DEFINITION. Timer and key operations (spec/44_timers_keys.md).
-/

namespace Sys2Proof.Machine

/-- SKP Vx (R165, R171). -/
def execSkp (x : Nibble) (s : State) : Host.Outcome State Fault Refusal :=
  match s.keyIndex x with
  | some k => .next (s.skipIf (keyPressed s.key k))
  | none => .next (s.raise .keyRange (s.reg x).toNat)

/-- SKNP Vx (R166, R171). -/
def execSknp (x : Nibble) (s : State) : Host.Outcome State Fault Refusal :=
  match s.keyIndex x with
  | some k => .next (s.skipIf (!keyPressed s.key k))
  | none => .next (s.raise .keyRange (s.reg x).toNat)

/-- LD Vx, DT (R167). -/
def execGetdt (x : Nibble) (s : State) : Host.Outcome State Fault Refusal :=
  .next (s.setReg x s.dt)

/-- LD Vx, K: with no key pressed PC goes back to the instruction, which is retried (R168). -/
def execWaitk (x : Nibble) (s : State) : Host.Outcome State Fault Refusal :=
  if s.key = 0#16 then .next (s.setPc (s.pc - 2#16))
  else .next (s.setReg x ((waitKeySelect s.key).setWidth 8))

/-- LD DT, Vx (R169). -/
def execSetdt (x : Nibble) (s : State) : Host.Outcome State Fault Refusal :=
  .next { s with dt := s.reg x }

/-- LD ST, Vx: TONE does not change until the next FRAME (R170). -/
def execSetst (x : Nibble) (s : State) : Host.Outcome State Fault Refusal :=
  .next { s with st := s.reg x }

end Sys2Proof.Machine
end

