-- ==== Sys2Proof/Syntax.lean ====
section
/-!
DEFINITION. The instructions: one constructor per row of spec/opcode_table.json, in its order. An
argument named `ign` holds bits that the row's format ignores (spec/30_encoding.md R81): they are
kept so that no bit of a word is lost, and no meaning reads them.
-/

namespace Sys2Proof

/-- The 38 operations of spec/30_encoding.md R90. -/
inductive Instr where
  /-- CLS, `0-E0`. `ign` is bits 11-8. -/
  | cls (ign : Nibble)
  /-- RET, `0-EE`. `ign` is bits 11-8. -/
  | ret (ign : Nibble)
  /-- SYS, `0kkk` with another low byte. -/
  | sys (ign : Addr)
  /-- JP, `1nnn`. -/
  | jp (nnn : Addr)
  /-- CALL, `2nnn`. -/
  | call (nnn : Addr)
  /-- SEQI, `3xnn`. -/
  | seqi (x : Nibble) (nn : Byte)
  /-- SNEI, `4xnn`. -/
  | snei (x : Nibble) (nn : Byte)
  /-- SEQR, `5xy-`. `ign` is bits 3-0. -/
  | seqr (x y ign : Nibble)
  /-- MOVI, `6xnn`. -/
  | movi (x : Nibble) (nn : Byte)
  /-- ADDI, `7xnn`. -/
  | addi (x : Nibble) (nn : Byte)
  /-- MOV, `8xy0`. -/
  | mov (x y : Nibble)
  /-- OR, `8xy1`. -/
  | or (x y : Nibble)
  /-- AND, `8xy2`. -/
  | and (x y : Nibble)
  /-- XOR, `8xy3`. -/
  | xor (x y : Nibble)
  /-- ADD, `8xy4`. -/
  | add (x y : Nibble)
  /-- SUB, `8xy5`. -/
  | sub (x y : Nibble)
  /-- SHR, `8xy6`. `ign` is the y field. -/
  | shr (x ign : Nibble)
  /-- SUBN, `8xy7`. -/
  | subn (x y : Nibble)
  /-- SHL, `8xyE`. `ign` is the y field. -/
  | shl (x ign : Nibble)
  /-- NOP8, `8xyk` with another low nibble. -/
  | nop8 (ign : Addr)
  /-- SNER, `9xy-`. `ign` is bits 3-0. -/
  | sner (x y ign : Nibble)
  /-- LDIDX, `Annn`. -/
  | ldidx (nnn : Addr)
  /-- JPV0, `Bnnn`. -/
  | jpv0 (nnn : Addr)
  /-- RND, `Cxnn`. -/
  | rnd (x : Nibble) (nn : Byte)
  /-- DRW, `Dxyn`. -/
  | drw (x y n : Nibble)
  /-- SKP, `Ex9E`. -/
  | skp (x : Nibble)
  /-- SKNP, `ExA1`. -/
  | sknp (x : Nibble)
  /-- NOPE, `Exkk` with another low byte. -/
  | nope (ign : Addr)
  /-- GETDT, `Fx07`. -/
  | getdt (x : Nibble)
  /-- WAITK, `Fx0A`. -/
  | waitk (x : Nibble)
  /-- SETDT, `Fx15`. -/
  | setdt (x : Nibble)
  /-- SETST, `Fx18`. -/
  | setst (x : Nibble)
  /-- ADDIDX, `Fx1E`. -/
  | addidx (x : Nibble)
  /-- FONT, `Fx29`. -/
  | font (x : Nibble)
  /-- BCD, `Fx33`. -/
  | bcd (x : Nibble)
  /-- STREGS, `Fx55`. -/
  | stregs (x : Nibble)
  /-- LDREGS, `Fx65`. -/
  | ldregs (x : Nibble)
  /-- NOPF, `Fxkk` with another low byte. -/
  | nopf (ign : Addr)
  deriving DecidableEq, Repr

end Sys2Proof
end

