-- ==== Sys2Proof/WellFormed.lean ====
section
/-!
DEFINITION. Which instruction terms stand for a word of their own row: a catch-all row holds only
the words that the rows before it leave over (spec/30_encoding.md R85-R88, R90). Every other
operand takes every value of its field (R82).
-/

namespace Sys2Proof

/-- The low bytes that select an operation of primary 0x0 (R85). -/
def systemSelectors : List Byte := [0xE0#8, 0xEE#8]

/-- The low nibbles that select an operation of primary 0x8 (R86). -/
def aluSelectors : List Nibble := [0x0#4, 0x1#4, 0x2#4, 0x3#4, 0x4#4, 0x5#4, 0x6#4, 0x7#4, 0xE#4]

/-- The low bytes that select an operation of primary 0xE (R87). -/
def keySelectors : List Byte := [0x9E#8, 0xA1#8]

/-- The low bytes that select an operation of primary 0xF (R88). -/
def miscSelectors : List Byte := [0x07#8, 0x0A#8, 0x15#8, 0x18#8, 0x1E#8, 0x29#8, 0x33#8, 0x55#8, 0x65#8]

/-- The instruction is one that some word decodes to. -/
def Instr.wf : Instr → Bool
  | .sys ign  => !systemSelectors.contains (ign.extractLsb' 0 8)
  | .nop8 ign => !aluSelectors.contains (ign.extractLsb' 0 4)
  | .nope ign => !keySelectors.contains (ign.extractLsb' 0 8)
  | .nopf ign => !miscSelectors.contains (ign.extractLsb' 0 8)
  | .cls _ | .ret _ | .jp _ | .call _ | .seqi _ _ | .snei _ _ | .seqr _ _ _ | .movi _ _
  | .addi _ _ | .mov _ _ | .or _ _ | .and _ _ | .xor _ _ | .add _ _ | .sub _ _ | .shr _ _
  | .subn _ _ | .shl _ _ | .sner _ _ _ | .ldidx _ | .jpv0 _ | .rnd _ _ | .drw _ _ _ | .skp _
  | .sknp _ | .getdt _ | .waitk _ | .setdt _ | .setst _ | .addidx _ | .font _ | .bcd _
  | .stregs _ | .ldregs _ => true

end Sys2Proof
end

