-- ==== Sys2Proof/Decode.lean ====
section
/-!
DEFINITION. Decoding and encoding of the 16-bit instruction word (spec/30_encoding.md), the opcode
map as data, and the assembly text of an instruction.
-/

namespace Sys2Proof

/-! ## Fields (R81) -/

/-- The primary selector, `w[15:12]`. -/
def fieldOp (w : Word) : Nibble := w.extractLsb' 12 4
/-- `x = w[11:8]`. -/
def fieldX (w : Word) : Nibble := w.extractLsb' 8 4
/-- `y = w[7:4]`. -/
def fieldY (w : Word) : Nibble := w.extractLsb' 4 4
/-- `n = w[3:0]`. -/
def fieldN (w : Word) : Nibble := w.extractLsb' 0 4
/-- `nn = w[7:0]`. -/
def fieldNN (w : Word) : Byte := w.extractLsb' 0 8
/-- `nnn = w[11:0]`. -/
def fieldNNN (w : Word) : Addr := w.extractLsb' 0 12

/-! ## The decoder (R83-R89) -/

/-- Primary 0x0, selected by the low byte (R85). -/
def decodeSystem (w : Word) : Instr :=
  if fieldNN w = 0xE0#8 then .cls (fieldX w)
  else if fieldNN w = 0xEE#8 then .ret (fieldX w)
  else .sys (fieldNNN w)

/-- Primary 0x8, selected by the low nibble (R86). -/
def decodeAlu (w : Word) : Instr :=
  if fieldN w = 0x0#4 then .mov (fieldX w) (fieldY w)
  else if fieldN w = 0x1#4 then .or (fieldX w) (fieldY w)
  else if fieldN w = 0x2#4 then .and (fieldX w) (fieldY w)
  else if fieldN w = 0x3#4 then .xor (fieldX w) (fieldY w)
  else if fieldN w = 0x4#4 then .add (fieldX w) (fieldY w)
  else if fieldN w = 0x5#4 then .sub (fieldX w) (fieldY w)
  else if fieldN w = 0x6#4 then .shr (fieldX w) (fieldY w)
  else if fieldN w = 0x7#4 then .subn (fieldX w) (fieldY w)
  else if fieldN w = 0xE#4 then .shl (fieldX w) (fieldY w)
  else .nop8 (fieldNNN w)

/-- Primary 0xE, selected by the low byte (R87). -/
def decodeKey (w : Word) : Instr :=
  if fieldNN w = 0x9E#8 then .skp (fieldX w)
  else if fieldNN w = 0xA1#8 then .sknp (fieldX w)
  else .nope (fieldNNN w)

/-- Primary 0xF, selected by the low byte (R88). -/
def decodeMisc (w : Word) : Instr :=
  if fieldNN w = 0x07#8 then .getdt (fieldX w)
  else if fieldNN w = 0x0A#8 then .waitk (fieldX w)
  else if fieldNN w = 0x15#8 then .setdt (fieldX w)
  else if fieldNN w = 0x18#8 then .setst (fieldX w)
  else if fieldNN w = 0x1E#8 then .addidx (fieldX w)
  else if fieldNN w = 0x29#8 then .font (fieldX w)
  else if fieldNN w = 0x33#8 then .bcd (fieldX w)
  else if fieldNN w = 0x55#8 then .stregs (fieldX w)
  else if fieldNN w = 0x65#8 then .ldregs (fieldX w)
  else .nopf (fieldNNN w)

/-- The decoder: every word is exactly one operation (R83, R84, R89). -/
def decode (w : Word) : Instr :=
  match fieldOp w with
  | 0x0#4 => decodeSystem w
  | 0x1#4 => .jp (fieldNNN w)
  | 0x2#4 => .call (fieldNNN w)
  | 0x3#4 => .seqi (fieldX w) (fieldNN w)
  | 0x4#4 => .snei (fieldX w) (fieldNN w)
  | 0x5#4 => .seqr (fieldX w) (fieldY w) (fieldN w)
  | 0x6#4 => .movi (fieldX w) (fieldNN w)
  | 0x7#4 => .addi (fieldX w) (fieldNN w)
  | 0x8#4 => decodeAlu w
  | 0x9#4 => .sner (fieldX w) (fieldY w) (fieldN w)
  | 0xA#4 => .ldidx (fieldNNN w)
  | 0xB#4 => .jpv0 (fieldNNN w)
  | 0xC#4 => .rnd (fieldX w) (fieldNN w)
  | 0xD#4 => .drw (fieldX w) (fieldY w) (fieldN w)
  | 0xE#4 => decodeKey w
  | _ => decodeMisc w

/-! ## Bytes (R80; 20_memory.md R52) -/

/-- Two bytes in memory order as a word, big-endian: the first is bits 15-8. -/
def wordOfBytes (hi lo : Byte) : Word := hi ++ lo

/-- The byte of a word that lies at the lower address. -/
def highByte (w : Word) : Byte := w.extractLsb' 8 8

/-- The byte of a word that lies at the higher address. -/
def lowByte (w : Word) : Byte := w.extractLsb' 0 8

/-- Why a byte list holds no instruction: fewer than the 2 bytes an instruction has (R80). No
other rejection exists (R91). -/
inductive DecodeError where
  | truncated (available : Nat)
  deriving DecidableEq, Repr

/-- Decodes the instruction at the head of a byte list and gives back the rest. -/
def decodeBytes : List Byte → Except DecodeError (Instr × List Byte)
  | hi :: lo :: rest => .ok (decode (wordOfBytes hi lo), rest)
  | short => .error (.truncated short.length)

/-- The host's reading of the decoder: `w` numbered as spec/opcode_table.json numbers it, laid out
big-endian in two bytes. No instruction is longer than 16 bits (R80). -/
def decodeTableWord (nbits w : Nat) : Option Instr :=
  if nbits ≤ 16 then
    let word := BitVec.ofNat 16 (w % 2 ^ nbits)
    match decodeBytes [highByte word, lowByte word] with
    | .ok (i, _) => some i
    | .error _ => none
  else none

/-! ## The encoder (R81, R90) -/

/-- Formats XY, XYN, XS and S0: four nibbles. -/
def wordNibbles (op a b c : Nibble) : Word := op ++ a ++ b ++ c
/-- Format XB, and the byte-selected rows of primaries 0, E and F. -/
def wordByte (op a : Nibble) (b : Byte) : Word := op ++ a ++ b
/-- Format A. -/
def wordAddr (op : Nibble) (nnn : Addr) : Word := op ++ nnn

/-- The word of an instruction. -/
def encode : Instr → Word
  | .cls ign => wordByte 0x0#4 ign 0xE0#8
  | .ret ign => wordByte 0x0#4 ign 0xEE#8
  | .sys ign => wordAddr 0x0#4 ign
  | .jp nnn => wordAddr 0x1#4 nnn
  | .call nnn => wordAddr 0x2#4 nnn
  | .seqi x nn => wordByte 0x3#4 x nn
  | .snei x nn => wordByte 0x4#4 x nn
  | .seqr x y ign => wordNibbles 0x5#4 x y ign
  | .movi x nn => wordByte 0x6#4 x nn
  | .addi x nn => wordByte 0x7#4 x nn
  | .mov x y => wordNibbles 0x8#4 x y 0x0#4
  | .or x y => wordNibbles 0x8#4 x y 0x1#4
  | .and x y => wordNibbles 0x8#4 x y 0x2#4
  | .xor x y => wordNibbles 0x8#4 x y 0x3#4
  | .add x y => wordNibbles 0x8#4 x y 0x4#4
  | .sub x y => wordNibbles 0x8#4 x y 0x5#4
  | .shr x ign => wordNibbles 0x8#4 x ign 0x6#4
  | .subn x y => wordNibbles 0x8#4 x y 0x7#4
  | .shl x ign => wordNibbles 0x8#4 x ign 0xE#4
  | .nop8 ign => wordAddr 0x8#4 ign
  | .sner x y ign => wordNibbles 0x9#4 x y ign
  | .ldidx nnn => wordAddr 0xA#4 nnn
  | .jpv0 nnn => wordAddr 0xB#4 nnn
  | .rnd x nn => wordByte 0xC#4 x nn
  | .drw x y n => wordNibbles 0xD#4 x y n
  | .skp x => wordByte 0xE#4 x 0x9E#8
  | .sknp x => wordByte 0xE#4 x 0xA1#8
  | .nope ign => wordAddr 0xE#4 ign
  | .getdt x => wordByte 0xF#4 x 0x07#8
  | .waitk x => wordByte 0xF#4 x 0x0A#8
  | .setdt x => wordByte 0xF#4 x 0x15#8
  | .setst x => wordByte 0xF#4 x 0x18#8
  | .addidx x => wordByte 0xF#4 x 0x1E#8
  | .font x => wordByte 0xF#4 x 0x29#8
  | .bcd x => wordByte 0xF#4 x 0x33#8
  | .stregs x => wordByte 0xF#4 x 0x55#8
  | .ldregs x => wordByte 0xF#4 x 0x65#8
  | .nopf ign => wordAddr 0xF#4 ign

/-- The two bytes of an instruction in memory order (R80). -/
def encodeBytes (i : Instr) : List Byte := [highByte (encode i), lowByte (encode i)]

/-! ## The opcode map as data (R90) -/

/-- A row of the opcode map: a word is of the row when `word AND mask` is `value`. -/
structure OpcodeRow where
  mnemonic : String
  value : Word
  mask : Word
  deriving DecidableEq, Repr

/-- The opcode map in its first-match order (R89, R90). -/
def opcodeMap : List OpcodeRow :=
  [⟨"CLS", 0x00E0#16, 0xF0FF#16⟩, ⟨"RET", 0x00EE#16, 0xF0FF#16⟩, ⟨"SYS", 0x0000#16, 0xF000#16⟩,
   ⟨"JP", 0x1000#16, 0xF000#16⟩, ⟨"CALL", 0x2000#16, 0xF000#16⟩, ⟨"SEQI", 0x3000#16, 0xF000#16⟩,
   ⟨"SNEI", 0x4000#16, 0xF000#16⟩, ⟨"SEQR", 0x5000#16, 0xF000#16⟩, ⟨"MOVI", 0x6000#16, 0xF000#16⟩,
   ⟨"ADDI", 0x7000#16, 0xF000#16⟩] ++
  [⟨"MOV", 0x8000#16, 0xF00F#16⟩, ⟨"OR", 0x8001#16, 0xF00F#16⟩, ⟨"AND", 0x8002#16, 0xF00F#16⟩,
   ⟨"XOR", 0x8003#16, 0xF00F#16⟩, ⟨"ADD", 0x8004#16, 0xF00F#16⟩, ⟨"SUB", 0x8005#16, 0xF00F#16⟩,
   ⟨"SHR", 0x8006#16, 0xF00F#16⟩, ⟨"SUBN", 0x8007#16, 0xF00F#16⟩, ⟨"SHL", 0x800E#16, 0xF00F#16⟩,
   ⟨"NOP8", 0x8000#16, 0xF000#16⟩] ++
  [⟨"SNER", 0x9000#16, 0xF000#16⟩, ⟨"LDIDX", 0xA000#16, 0xF000#16⟩, ⟨"JPV0", 0xB000#16, 0xF000#16⟩,
   ⟨"RND", 0xC000#16, 0xF000#16⟩, ⟨"DRW", 0xD000#16, 0xF000#16⟩, ⟨"SKP", 0xE09E#16, 0xF0FF#16⟩,
   ⟨"SKNP", 0xE0A1#16, 0xF0FF#16⟩, ⟨"NOPE", 0xE000#16, 0xF000#16⟩] ++
  [⟨"GETDT", 0xF007#16, 0xF0FF#16⟩, ⟨"WAITK", 0xF00A#16, 0xF0FF#16⟩, ⟨"SETDT", 0xF015#16, 0xF0FF#16⟩,
   ⟨"SETST", 0xF018#16, 0xF0FF#16⟩, ⟨"ADDIDX", 0xF01E#16, 0xF0FF#16⟩, ⟨"FONT", 0xF029#16, 0xF0FF#16⟩,
   ⟨"BCD", 0xF033#16, 0xF0FF#16⟩, ⟨"STREGS", 0xF055#16, 0xF0FF#16⟩, ⟨"LDREGS", 0xF065#16, 0xF0FF#16⟩,
   ⟨"NOPF", 0xF000#16, 0xF000#16⟩]

/-- The word belongs to the row. -/
def rowMatches (w : Word) (r : OpcodeRow) : Bool := w &&& r.mask == r.value

/-- The first row of the opcode map that a word belongs to. -/
def firstRow (w : Word) : Option OpcodeRow := opcodeMap.find? (rowMatches w)

/-- The id of an instruction's row, its mnemonic in the spec (R92). -/
def mnemonic : Instr → String
  | .cls _ => "CLS"
  | .ret _ => "RET"
  | .sys _ => "SYS"
  | .jp _ => "JP"
  | .call _ => "CALL"
  | .seqi _ _ => "SEQI"
  | .snei _ _ => "SNEI"
  | .seqr _ _ _ => "SEQR"
  | .movi _ _ => "MOVI"
  | .addi _ _ => "ADDI"
  | .mov _ _ => "MOV"
  | .or _ _ => "OR"
  | .and _ _ => "AND"
  | .xor _ _ => "XOR"
  | .add _ _ => "ADD"
  | .sub _ _ => "SUB"
  | .shr _ _ => "SHR"
  | .subn _ _ => "SUBN"
  | .shl _ _ => "SHL"
  | .nop8 _ => "NOP8"
  | .sner _ _ _ => "SNER"
  | .ldidx _ => "LDIDX"
  | .jpv0 _ => "JPV0"
  | .rnd _ _ => "RND"
  | .drw _ _ _ => "DRW"
  | .skp _ => "SKP"
  | .sknp _ => "SKNP"
  | .nope _ => "NOPE"
  | .getdt _ => "GETDT"
  | .waitk _ => "WAITK"
  | .setdt _ => "SETDT"
  | .setst _ => "SETST"
  | .addidx _ => "ADDIDX"
  | .font _ => "FONT"
  | .bcd _ => "BCD"
  | .stregs _ => "STREGS"
  | .ldregs _ => "LDREGS"
  | .nopf _ => "NOPF"

/-! ## Assembly (R92, R93) -/

/-- The instruction an assembler makes of a mnemonic: every ignored nibble is 0 (R93). SYS keeps its
written address, and the no-op rows keep their word, since they are written as raw data words. -/
def canonical : Instr → Instr
  | .cls _ => .cls 0
  | .ret _ => .ret 0
  | .seqr x y _ => .seqr x y 0
  | .shr x _ => .shr x 0
  | .shl x _ => .shl x 0
  | .sner x y _ => .sner x y 0
  | i => i

/-- A hexadecimal digit. -/
def hexDigit (n : Nibble) : String :=
  ["0", "1", "2", "3", "4", "5", "6", "7", "8", "9", "A", "B", "C", "D", "E", "F"].getD n.toNat "0"

/-- Two hexadecimal digits. -/
def hexByte (b : Byte) : String := hexDigit (b.extractLsb' 4 4) ++ hexDigit (b.extractLsb' 0 4)

/-- Three hexadecimal digits. -/
def hexAddr (a : Addr) : String := hexDigit (a.extractLsb' 8 4) ++ hexByte (a.extractLsb' 0 8)

/-- `Vx`. -/
def regName (x : Nibble) : String := "V" ++ hexDigit x

/-- The assembly spelling of an instruction (R92, R93). -/
def assembly : Instr → String
  | .cls _ => "CLS"
  | .ret _ => "RET"
  | .sys a => "SYS " ++ hexAddr a
  | .jp a => "JP " ++ hexAddr a
  | .call a => "CALL " ++ hexAddr a
  | .seqi x nn => "SE " ++ regName x ++ ", " ++ hexByte nn
  | .snei x nn => "SNE " ++ regName x ++ ", " ++ hexByte nn
  | .seqr x y _ => "SE " ++ regName x ++ ", " ++ regName y
  | .movi x nn => "LD " ++ regName x ++ ", " ++ hexByte nn
  | .addi x nn => "ADD " ++ regName x ++ ", " ++ hexByte nn
  | .mov x y => "LD " ++ regName x ++ ", " ++ regName y
  | .or x y => "OR " ++ regName x ++ ", " ++ regName y
  | .and x y => "AND " ++ regName x ++ ", " ++ regName y
  | .xor x y => "XOR " ++ regName x ++ ", " ++ regName y
  | .add x y => "ADD " ++ regName x ++ ", " ++ regName y
  | .sub x y => "SUB " ++ regName x ++ ", " ++ regName y
  | .shr x _ => "SHR " ++ regName x
  | .subn x y => "SUBN " ++ regName x ++ ", " ++ regName y
  | .shl x _ => "SHL " ++ regName x
  | .nop8 a => "DW 8" ++ hexAddr a
  | .sner x y _ => "SNE " ++ regName x ++ ", " ++ regName y
  | .ldidx a => "LD I, " ++ hexAddr a
  | .jpv0 a => "JP V0, " ++ hexAddr a
  | .rnd x nn => "RND " ++ regName x ++ ", " ++ hexByte nn
  | .drw x y n => "DRW " ++ regName x ++ ", " ++ regName y ++ ", " ++ hexDigit n
  | .skp x => "SKP " ++ regName x
  | .sknp x => "SKNP " ++ regName x
  | .nope a => "DW E" ++ hexAddr a
  | .getdt x => "LD " ++ regName x ++ ", DT"
  | .waitk x => "LD " ++ regName x ++ ", K"
  | .setdt x => "LD DT, " ++ regName x
  | .setst x => "LD ST, " ++ regName x
  | .addidx x => "ADD I, " ++ regName x
  | .font x => "LD F, " ++ regName x
  | .bcd x => "LD B, " ++ regName x
  | .stregs x => "LD [I], " ++ regName x
  | .ldregs x => "LD " ++ regName x ++ ", [I]"
  | .nopf a => "DW F" ++ hexAddr a

end Sys2Proof
end

