-- ==== Sys2Proof/Machine/Engine.lean ====
section
/-!
DEFINITION. The execution engine around the instructions (spec/60_exceptions.md R184-R198;
70_reset_and_hazards.md R220-R225): fetch, the budget, reset and program load, the poll, the frame,
PRESENT, and what the engine does in HALTED and TERMINATED.
-/

namespace Sys2Proof.Machine

/-! ## Fetch (20_memory.md R52-R55) -/

/-- The last address an instruction can be fetched at (R54). -/
def lastFetch : Nat := 0xFFE

/-- The instruction at PC; `none` when the fetch is out of bounds (R52, R54). -/
def fetch (s : State) : Option Instr :=
  if s.pc.toNat > lastFetch then none else some (decode (s.mem.readWord s.pc.toNat))

/-- The halt of a failed fetch (R54). -/
def fetchHalt (s : State) : State := s.haltAt s.pc .fetchBounds s.pc.toNat

/-- `BUDGET <- BUDGET - 1` after an instruction (60_exceptions.md R188); a halt has left it at 0,
where it stays (assumption 21). -/
def State.spend (s : State) : State := { s with budget := s.budget - 1 }

/-- The budget is spent on whatever state the instruction ends in. -/
def retire : Host.Outcome State Fault Refusal → Host.Outcome State Fault Refusal
  | .next s => .next s.spend
  | .fault r => .fault r
  | .refused r => .refused r

/-! ## Reset and load (70_reset_and_hazards.md) -/

/-- Takes the input at the head of the list away. -/
def State.takeInput (s : State) : State := { s with inputs := s.inputs.tail }

/-- RESET, steps 1-5 of R220: every piece of the CORE's state at its reset value. What has happened
outside the CORE is kept: the inputs still to come, the draws made and the pictures presented
(assumption 17). -/
def State.resetSequence (s : State) : State :=
  { State.reset with
    inputs := s.inputs
    draws := s.draws
    presents := s.presents
    presented := s.presented }

/-- LOAD_FAIL, or an image that is too long: the failure is reported, the program region is all
zero, and the CORE starts (R222, R223). -/
def State.failLoad (s : State) : State :=
  { s with
    mem := s.mem.clearFrom Config.programBase
    loadFailed := true
    es := .running }

/-- LOAD: byte `k` of the image at 0x200 + k, zero after it, and the CORE starts; an image longer
than MaxImage is a load failure (R220 steps 6-7, R221, R222). -/
def State.loadImage (s : State) (image : List Byte) : State :=
  if image.length ≤ Config.maxImage then
    { s with
      mem := (s.mem.clearFrom Config.programBase).place Config.programBase image
      loadFailed := false
      es := .running }
  else s.failLoad

/-! ## The frame (60_exceptions.md R190-R195) -/

/-- A timer at a FRAME event: one less while nonzero, clamped at zero (R192). -/
def tick (t : Byte) : Byte := if t = 0#8 then 0#8 else t - 1#8

/-- The timer decrements of a FRAME event (R192). -/
def State.tickTimers (s : State) : State := { s with dt := tick s.dt, st := tick s.st }

/-- The start of `frame()`: the timers, then TONE from the decremented ST, then the budget (R190,
R195). -/
def State.beginFrame (s : State) : State :=
  let ticked := s.tickTimers
  { ticked with tone := ticked.st != 0#8, budget := Config.ipf }

/-- QUIT in RUNNING or HALTED (R198). -/
def State.terminate (s : State) : State := { s with es := .terminated, tone := false }

/-- One turn of the loop of R190 in RUNNING: KEY is sampled, QUIT is acted on before a FRAME is
examined (R183), and a FRAME starts a batch. -/
def State.poll (s : State) (keys : Keys) (quit frame : Bool) : State :=
  let sampled := { s with key := keys }
  if quit then sampled.terminate
  else if frame then sampled.beginFrame
  else sampled

/-- PRESENT at the end of a batch: the render adapter reads FB, and DIRTY is cleared (R194). -/
def State.present (s : State) : State :=
  { s with presents := s.presents + 1, presented := s.fb, dirty := false }

/-! ## One transition of the engine outside a batch (assumptions 1-4, 14, 15) -/

/-- ES = RESET: waits for the load, step 6 of R220. -/
def awaitLoad (s : State) : State :=
  match s.inputs with
  | [] => s
  | .reset :: _ => s.takeInput.resetSequence
  | .load image :: _ => s.takeInput.loadImage image
  | .loadFail :: _ => s.takeInput.failLoad
  | .poll _ _ _ :: _ => s.takeInput

/-- ES = RUNNING with the batch done: PRESENT if DIRTY, else the next turn of the loop (R190). -/
def betweenBatches (s : State) : State :=
  if s.dirty then s.present
  else
    match s.inputs with
    | [] => s
    | .reset :: _ => s.takeInput.resetSequence
    | .load _ :: _ => s.takeInput
    | .loadFail :: _ => s.takeInput
    | .poll keys quit frame :: _ => s.takeInput.poll keys quit frame

/-- ES = HALTED: FRAME is ignored, QUIT terminates, RESET restarts (R184). -/
def whileHalted (s : State) : State :=
  match s.inputs with
  | [] => s
  | .reset :: _ => s.takeInput.resetSequence
  | .load _ :: _ => s.takeInput
  | .loadFail :: _ => s.takeInput
  | .poll _ quit _ :: _ => if quit then s.takeInput.terminate else s.takeInput

/-- ES = TERMINATED: every input but RESET is ignored (R186). -/
def whileTerminated (s : State) : State :=
  match s.inputs with
  | [] => s
  | .reset :: _ => s.takeInput.resetSequence
  | .load _ :: _ => s.takeInput
  | .loadFail :: _ => s.takeInput
  | .poll _ _ _ :: _ => s.takeInput

end Sys2Proof.Machine
end

