-- ==== Sys2Proof/Machine/Step.lean ====
section
/-!
DEFINITION. One step of the CORE: one transition of the engine (spec/60_exceptions.md R188, R190;
assumption 1), and where the host puts the instruction it wants fetched next.
-/

namespace Sys2Proof.Machine

/-- One step. In a batch (RUNNING with BUDGET > 0) it is one instruction, R188; otherwise it is what
the engine does in its state. -/
def step (s : State) : Host.Outcome State Fault Refusal :=
  match s.es with
  | .reset => .next (awaitLoad s)
  | .halted => .next (whileHalted s)
  | .terminated => .next (whileTerminated s)
  | .running =>
    if s.budget = 0 then .next (betweenBatches s)
    else
      match fetch s with
      | none => .next (fetchHalt s)
      | some i => retire (exec i s.advance)

/-- Where `withFetchWord` puts the instruction: at PC, or at the program base when PC cannot fetch
from memory that a load could have written. -/
def State.fetchSlot (s : State) : Word :=
  if s.pc.toNat < Config.fontEnd ∨ s.pc.toNat > lastFetch then 0x200#16 else s.pc

/-- The state in which the very next step fetches and runs the instruction whose bits are `w`,
numbered as the opcode table numbers them: the two bytes at PC, big-endian, in a batch with budget
left. It stands for the load and the FRAME that bring a program to run (assumption 4). -/
def State.withFetchWord (s : State) (nbits w : Nat) : State :=
  let word := BitVec.ofNat 16 (w % 2 ^ nbits)
  let at_ := s.fetchSlot
  { s with
    pc := at_
    mem := (s.mem.write at_.toNat (highByte word)).write (at_.toNat + 1) (lowByte word)
    es := .running
    budget := if s.budget = 0 then 1 else s.budget }

end Sys2Proof.Machine
end

