-- ==== Sys2Proof/Safety.lean ====
section
/-!
DEFINITION. The terms in which claims about the machine are stated: what an instruction may change
(its frame), what a halt leaves, when a run is safe, and the invariants that every step keeps.
-/

namespace Sys2Proof.Machine

/-! ## Frames -/

/-- The parts of the state besides the registers and memory that an instruction may write. -/
inductive Part where
  | i
  | pc
  | sp
  | stack
  | dt
  | st
  | fb
  | dirty
  | draws
  deriving DecidableEq, Repr

/-- What no instruction can address (spec/10_state.md R36): the engine state, the halt record,
BUDGET, TONE, KEY and the interface's own records. -/
structure SameEngine (s t : State) : Prop where
  es : t.es = s.es
  haltCause : t.haltCause = s.haltCause
  haltPc : t.haltPc = s.haltPc
  haltAddr : t.haltAddr = s.haltAddr
  budget : t.budget = s.budget
  tone : t.tone = s.tone
  key : t.key = s.key
  inputs : t.inputs = s.inputs
  presents : t.presents = s.presents
  presented : t.presented = s.presented
  loadFailed : t.loadFailed = s.loadFailed

/-- From `s` to `t` at most the registers in `regs`, the bytes at `addrs` and the named parts
change. -/
structure Frame (regs : Nibble → Prop) (addrs : Nat → Prop) (parts : List Part) (s t : State) :
    Prop where
  reg : ∀ r, ¬ regs r → t.reg r = s.reg r
  mem : ∀ a, ¬ addrs a → t.mem.read a = s.mem.read a
  i : Part.i ∉ parts → t.i = s.i
  pc : Part.pc ∉ parts → t.pc = s.pc
  sp : Part.sp ∉ parts → t.sp = s.sp
  stack : Part.stack ∉ parts → t.stack = s.stack
  dt : Part.dt ∉ parts → t.dt = s.dt
  st : Part.st ∉ parts → t.st = s.st
  fb : Part.fb ∉ parts → t.fb = s.fb
  dirty : Part.dirty ∉ parts → t.dirty = s.dirty
  draws : Part.draws ∉ parts → t.draws = s.draws
  engine : SameEngine s t

/-- No register. -/
def noReg : Nibble → Prop := fun _ => False

/-- No address: the form stores nothing. -/
def noAddr : Nat → Prop := fun _ => False

/-- The addresses `base .. base + n - 1`. -/
def span (base n : Nat) : Nat → Prop := fun a => base ≤ a ∧ a < base + n

/-- What the engine outside a batch leaves to the program: everything but KEY, the timers, TONE, ES,
BUDGET, DIRTY, the inputs and the record of PRESENT. -/
structure SameProgram (s t : State) : Prop where
  v : t.v = s.v
  i : t.i = s.i
  pc : t.pc = s.pc
  sp : t.sp = s.sp
  stack : t.stack = s.stack
  mem : t.mem = s.mem
  fb : t.fb = s.fb
  haltCause : t.haltCause = s.haltCause
  haltPc : t.haltPc = s.haltPc
  haltAddr : t.haltAddr = s.haltAddr
  draws : t.draws = s.draws
  loadFailed : t.loadFailed = s.loadFailed

/-- No PRESENT is raised, and DIRTY stays. -/
structure NoPresent (s t : State) : Prop where
  dirty : t.dirty = s.dirty
  presents : t.presents = s.presents
  presented : t.presented = s.presented

/-! ## Halts (spec/60_exceptions.md R180) -/

/-- `t` is `s` halted at `pc0`: the halt entry of R180 and nothing else. -/
structure HaltedBy (s t : State) (pc0 : Word) (cause : HaltCause) (addr : Nat) : Prop where
  es : t.es = .halted
  haltCause : t.haltCause = cause
  haltPc : t.haltPc = pc0
  haltAddr : t.haltAddr.toNat = addr
  pc : t.pc = pc0
  tone : t.tone = false
  budget : t.budget = 0
  v : t.v = s.v
  i : t.i = s.i
  sp : t.sp = s.sp
  stack : t.stack = s.stack
  mem : t.mem = s.mem
  dt : t.dt = s.dt
  st : t.st = s.st
  key : t.key = s.key
  fb : t.fb = s.fb
  dirty : t.dirty = s.dirty
  inputs : t.inputs = s.inputs
  draws : t.draws = s.draws
  presents : t.presents = s.presents
  presented : t.presented = s.presented
  loadFailed : t.loadFailed = s.loadFailed

/-- The machine is in a batch: the next step is an instruction (spec/60_exceptions.md R188). -/
def InBatch (s : State) : Prop := s.es = .running ∧ s.budget ≠ 0

/-- The machine is between two batches, with nothing to present: the next step takes an input
(spec/60_exceptions.md R190). -/
def AtPoll (s : State) : Prop := s.es = .running ∧ s.budget = 0 ∧ s.dirty = false

/-- The next step takes a RESET event (assumption 3). -/
def TakesReset (s : State) : Prop :=
  (s.es = .running → s.budget = 0 ∧ s.dirty = false) ∧ ∃ rest, s.inputs = .reset :: rest

/-- The next step starts a frame: a poll with a FRAME event and no QUIT (spec/60_exceptions.md
R190). -/
def StartsFrame (s : State) : Prop :=
  AtPoll s ∧ ∃ keys rest, s.inputs = .poll keys false true :: rest

/-- The next step fetches and runs an instruction in `is`. -/
def RunsOneOf (is : Instr → Prop) (s : State) : Prop := InBatch s ∧ ∃ i, fetch s = some i ∧ is i

/-- A run of steps from `s` to `t` in which `k` frames start, no RESET is taken, and no instruction
in `writers` runs. Between two frames stand the steps of a batch, and whatever else the engine
does. -/
inductive FrameRun (writers : Instr → Prop) : Nat → State → State → Prop where
  | here (s : State) : FrameRun writers 0 s s
  | frame {k : Nat} {s t u : State} : StartsFrame s → step s = .next t →
      FrameRun writers k t u → FrameRun writers (k + 1) s u
  | between {k : Nat} {s t u : State} : ¬ StartsFrame s → ¬ TakesReset s →
      ¬ RunsOneOf writers s → step s = .next t → FrameRun writers k t u → FrameRun writers k s u

/-- A load, or a failed load, writes nothing but memory, ES, the inputs and the model's record of a
failed load (spec/70_reset_and_hazards.md R221, R223). -/
def OnlyLoadWrites (s t : State) : Prop :=
  t = { s with mem := t.mem, es := t.es, inputs := t.inputs, loadFailed := t.loadFailed }

/-- A word that no row with an effect takes: "an unrecognized secondary selector within a recognized
primary" (spec/30_encoding.md R85-R88, R91). -/
def Unrecognised (w : Word) : Prop :=
  (fieldOp w = 0x0#4 ∧ fieldNN w ≠ 0xE0#8 ∧ fieldNN w ≠ 0xEE#8) ∨
  (fieldOp w = 0x8#4 ∧ fieldN w ∈ [0x8#4, 0x9#4, 0xA#4, 0xB#4, 0xC#4, 0xD#4, 0xF#4]) ∨
  (fieldOp w = 0xE#4 ∧ fieldNN w ≠ 0x9E#8 ∧ fieldNN w ≠ 0xA1#8) ∨
  (fieldOp w = 0xF#4 ∧ fieldNN w ∉ [0x07#8, 0x0A#8, 0x15#8, 0x18#8, 0x1E#8, 0x29#8, 0x33#8, 0x55#8, 0x65#8])

/-- A run is safe while no halt is recorded: claims about programs take this as a premise
(spec/93_implementation_defined.md section 1). -/
def State.Safe (s : State) : Prop := s.haltCause = .none

/-- `a` is the first of the addresses `base .. base + n - 1` at which the access fails, and `cause`
is why (spec/20_memory.md R53). -/
def IsFirstFailure (kind : Access) (base n a : Nat) (cause : HaltCause) : Prop :=
  span base n a ∧
    ((a > 0xFFF ∧ cause = .memBounds) ∨ (kind = .write ∧ a ≤ 0x04F ∧ cause = .fontWrite)) ∧
    ∀ b, base ≤ b → b < a → b ≤ 0xFFF ∧ (kind = .write → 0x04F < b)

/-- Every address `base .. base + n - 1` may be accessed (spec/20_memory.md R53). -/
def Accessible (kind : Access) (base n : Nat) : Prop :=
  ∀ a, span base n a → a ≤ 0xFFF ∧ (kind = .write → 0x04F < a)

/-! ## Sprites (spec/43_display.md R156, R157) -/

/-- A pixel that is 1 in the sprite of DRW Vx, Vy, n lands on FB[col][row]. -/
def SpriteHits (s : State) (x y n : Nibble) (col : Fin 64) (row : Fin 32) : Prop :=
  ∃ r c, r < n.toNat ∧ c < 8 ∧ (s.mem.read (s.i.toNat + r)).getLsbD (7 - c) = true ∧
    col.val = ((s.reg x).toNat + c) % 64 ∧ row.val = ((s.reg y).toNat + r) % 32

/-! ## Invariants -/

/-- Memory is in its canonical form. -/
def MemoryOk (s : State) : Prop := s.mem.wf = true

/-- The font region holds FONT (spec/90_conflicts.md C9). -/
def FontIntact (s : State) : Prop := ∀ a < Config.fontEnd, s.mem.read a = Config.font a

/-- PC is at most 0x10FE, and no return address is above 0x1000 (spec/10_state.md R25). -/
def PcOk (s : State) : Prop := s.pc.toNat ≤ 0x10FE ∧ ∀ k : Fin 16, s.stack[k.val].toNat ≤ 0x1000

/-- The engine state agrees with TONE, BUDGET and the halt record (spec/10_state.md R34, R35;
60_exceptions.md R180, R195). -/
structure EngineOk (s : State) : Prop where
  idle : s.es ≠ .running → s.tone = false ∧ s.budget = 0
  budget : s.budget ≤ Config.ipf
  clear : s.es = .reset ∨ s.es = .running →
    s.haltCause = .none ∧ s.haltPc = 0 ∧ s.haltAddr = 0
  halted : s.es = .halted → s.haltCause ≠ .none ∧ s.haltPc = s.pc

/-- In ES = RESET every piece of the CORE's state is at its reset value (spec/10_state.md R37). -/
def ResetOk (s : State) : Prop := s.es = .reset → s = s.resetSequence

end Sys2Proof.Machine
end

