-- ==== Sys2Proof/Certificates/Slice0/Obligations.lean ====
section
/-!
DEFINITION. The statements about the machine, each from the rules of spec/ that its docstring names.
A docstring names the decision D<n> (spec/92_eei_decisions.md) or the general-knowledge item G<n>
(spec/93_implementation_defined.md) by which the spec settled what its source leaves open.
`exec` runs on the state that fetch has advanced, so `s.pc` in a statement about an instruction is
the instruction's address plus 2 (spec/00_scope.md R8), and `s.pc - 2#16` its own address.
-/

open Sys2Proof Sys2Proof.Machine

/-! ## Encoding (spec/30_encoding.md) -/

/-- Words written out from the encodings of R85-R90 decode to what they stand for (D20,
G2). -/
def Obligations.SpecWordsDecode : Prop :=
  decode 0x00E0 = .cls 0 ∧ decode 0x0AEE = .ret 0xA ∧ decode 0x1200 = .jp 0x200 ∧
  decode 0x3310 = .seqi 3 0x10 ∧ decode 0x8AB4 = .add 0xA 0xB ∧ decode 0x8ABE = .shl 0xA 0xB ∧
  decode 0xA300 = .ldidx 0x300 ∧ decode 0xD012 = .drw 0 1 2 ∧ decode 0xE59E = .skp 5 ∧
  decode 0xF265 = .ldregs 2 ∧ decode 0xFFFF = .nopf 0xFFF

/-- Decoding the word of any well-formed instruction gives it back, with every operand at every
value (R81, R89). That the ignored bits come back too is the model's choice: its terms keep the bits
that a format ignores (assumption 24). -/
def Obligations.DecodeOfEncodeIsIdentity : Prop :=
  ∀ i : Instr, i.wf = true → decode (encode i) = i

/-- Every word is the word of exactly one well-formed instruction, the one it decodes to: decoding
is total (R83, R91) and drops no bit. That it drops no bit, `encode (decode w) = w` and one term for
one word, is the model's choice: its terms keep the bits that a format ignores (R81; assumption 24). -/
def Obligations.EveryWordIsOneInstruction : Prop :=
  ∀ w : Word, (decode w).wf = true ∧ encode (decode w) = w ∧
    ∀ i : Instr, i.wf = true → encode i = w → i = decode w

/-- The decoder picks the first row of the opcode map that the word belongs to (R89, R90; D20, D21,
G2). -/
def Obligations.DecodeFollowsOpcodeMap : Prop :=
  ∀ w : Word, (firstRow w).map OpcodeRow.mnemonic = some (mnemonic (decode w))

/-! ## ALU, register and random operations (spec/41_alu.md) -/

/-- LD Vx, nn (R121): Vx takes nn, and nothing else changes. -/
def Obligations.MoviLoadsImmediate : Prop :=
  ∀ (x : Nibble) (nn : Byte) (s : State), decode (wordByte 0x6#4 x nn) = .movi x nn ∧
    ∃ t, exec (.movi x nn) s = .next t ∧ t.reg x = nn ∧ Frame (· = x) noAddr [] s t

/-- ADD Vx, nn (R122): the sum modulo 256, and no flag: VF changes only as the destination. -/
def Obligations.AddiWrapsWithoutFlag : Prop :=
  ∀ (x : Nibble) (nn : Byte) (s : State), decode (wordByte 0x7#4 x nn) = .addi x nn ∧
    ∃ t, exec (.addi x nn) s = .next t ∧
      (t.reg x).toNat = ((s.reg x).toNat + nn.toNat) % 256 ∧ Frame (· = x) noAddr [] s t

/-- LD, OR, AND and XOR of two registers (R124-R127): bit by bit, with VF unaffected but as the
destination. -/
def Obligations.MoveAndLogicResults : Prop :=
  ∀ (x y : Nibble) (s : State),
    (decode (wordNibbles 0x8#4 x y 0x0#4) = .mov x y ∧ decode (wordNibbles 0x8#4 x y 0x1#4) = .or x y ∧
      decode (wordNibbles 0x8#4 x y 0x2#4) = .and x y ∧
      decode (wordNibbles 0x8#4 x y 0x3#4) = .xor x y) ∧
    (∃ t, exec (.mov x y) s = .next t ∧ t.reg x = s.reg y ∧ Frame (· = x) noAddr [] s t) ∧
    (∃ t, exec (.or x y) s = .next t ∧
      (∀ k, (t.reg x).getLsbD k = ((s.reg x).getLsbD k || (s.reg y).getLsbD k)) ∧
      Frame (· = x) noAddr [] s t) ∧
    (∃ t, exec (.and x y) s = .next t ∧
      (∀ k, (t.reg x).getLsbD k = ((s.reg x).getLsbD k && (s.reg y).getLsbD k)) ∧
      Frame (· = x) noAddr [] s t) ∧
    (∃ t, exec (.xor x y) s = .next t ∧
      (∀ k, (t.reg x).getLsbD k = ((s.reg x).getLsbD k ^^ (s.reg y).getLsbD k)) ∧
      Frame (· = x) noAddr [] s t)

/-- ADD Vx, Vy (R129): the sum modulo 256, VF the carry, the flag final for x = 15 (R23). -/
def Obligations.AddSetsCarry : Prop :=
  ∀ (x y : Nibble) (s : State), decode (wordNibbles 0x8#4 x y 0x4#4) = .add x y ∧
    ∃ t, exec (.add x y) s = .next t ∧
      (x ≠ 0xF#4 → (t.reg x).toNat = ((s.reg x).toNat + (s.reg y).toNat) % 256) ∧
      t.reg 0xF#4 = (if (s.reg x).toNat + (s.reg y).toNat > 255 then 1#8 else 0#8) ∧
      Frame (fun r => r = x ∨ r = 0xF#4) noAddr [] s t

/-- SUB Vx, Vy (R130): Vx - Vy modulo 256, VF 1 exactly when Vx >= Vy, the flag final for
x = 15 (R23). -/
def Obligations.SubSetsNoBorrow : Prop :=
  ∀ (x y : Nibble) (s : State), decode (wordNibbles 0x8#4 x y 0x5#4) = .sub x y ∧
    ∃ t, exec (.sub x y) s = .next t ∧
      (x ≠ 0xF#4 → (t.reg x).toNat = ((s.reg x).toNat + 256 - (s.reg y).toNat) % 256) ∧
      t.reg 0xF#4 = (if (s.reg x).toNat ≥ (s.reg y).toNat then 1#8 else 0#8) ∧
      Frame (fun r => r = x ∨ r = 0xF#4) noAddr [] s t

/-- SUBN Vx, Vy (R132): Vy - Vx modulo 256, VF 1 exactly when Vy >= Vx, the flag final for
x = 15 (R23). -/
def Obligations.SubnSetsNoBorrow : Prop :=
  ∀ (x y : Nibble) (s : State), decode (wordNibbles 0x8#4 x y 0x7#4) = .subn x y ∧
    ∃ t, exec (.subn x y) s = .next t ∧
      (x ≠ 0xF#4 → (t.reg x).toNat = ((s.reg y).toNat + 256 - (s.reg x).toNat) % 256) ∧
      t.reg 0xF#4 = (if (s.reg y).toNat ≥ (s.reg x).toNat then 1#8 else 0#8) ∧
      Frame (fun r => r = x ∨ r = 0xF#4) noAddr [] s t

/-- SHR Vx and SHL Vx (R131, R133): Vx halved or doubled modulo 256, VF the bit shifted out, the y
field of no effect, the flag final for x = 15 (R23). -/
def Obligations.ShiftsSetDroppedBit : Prop :=
  ∀ (x y : Nibble) (s : State),
    (decode (wordNibbles 0x8#4 x y 0x6#4) = .shr x y ∧ decode (wordNibbles 0x8#4 x y 0xE#4) = .shl x y) ∧
    (∃ t, exec (.shr x y) s = .next t ∧
      (x ≠ 0xF#4 → (t.reg x).toNat = (s.reg x).toNat / 2) ∧
      t.reg 0xF#4 = (if (s.reg x).toNat % 2 = 1 then 1#8 else 0#8) ∧
      Frame (fun r => r = x ∨ r = 0xF#4) noAddr [] s t) ∧
    (∃ t, exec (.shl x y) s = .next t ∧
      (x ≠ 0xF#4 → (t.reg x).toNat = (s.reg x).toNat * 2 % 256) ∧
      t.reg 0xF#4 = (if (s.reg x).toNat ≥ 128 then 1#8 else 0#8) ∧
      Frame (fun r => r = x ∨ r = 0xF#4) noAddr [] s t)

/-- RND Vx, nn (R134): the next draw of RAND masked by nn; the draw itself is free, and only the
masked-out bits are known to be 0 (D11, G4). The draws are counted in `draws`, a field of the model
(assumption 8). -/
def Obligations.RndMasksFreshDraw : Prop :=
  ∀ (x : Nibble) (nn : Byte) (s : State), decode (wordByte 0xC#4 x nn) = .rnd x nn ∧
    ∃ t, exec (.rnd x nn) s = .next t ∧
      (∀ k, (t.reg x).getLsbD k = ((Config.rand s.draws).getLsbD k && nn.getLsbD k)) ∧
      t.draws = s.draws + 1 ∧ Frame (· = x) noAddr [.draws] s t

/-! ## Control flow and no-ops (spec/40_control_flow.md) -/

/-- SYS, NOP8, NOPE and NOPF (R100, R101): the meaning changes nothing, and the whole step of an
unrecognised word is fetch's advance and one unit of the budget. -/
def Obligations.UnrecognisedWordsAreNoOps : Prop :=
  (∀ (a : Addr) (s : State), exec (.sys a) s = .next s ∧ exec (.nop8 a) s = .next s ∧
    exec (.nope a) s = .next s ∧ exec (.nopf a) s = .next s) ∧
  ∀ s : State, InBatch s → s.pc.toNat ≤ 0xFFE → Unrecognised (s.mem.readWord s.pc.toNat) →
    step s = .next { s with pc := s.pc + 2#16, budget := s.budget - 1 }

/-- JP nnn (R102). -/
def Obligations.JumpGoesToAddress : Prop :=
  ∀ (nnn : Addr) (s : State), decode (wordAddr 0x1#4 nnn) = .jp nnn ∧
    ∃ t, exec (.jp nnn) s = .next t ∧ t.pc.toNat = nnn.toNat ∧ Frame noReg noAddr [.pc] s t

/-- CALL nnn with SP < 16 (R104): the advanced PC is pushed, every other entry keeps its value. -/
def Obligations.CallPushesReturnAddress : Prop :=
  ∀ (nnn : Addr) (s : State), decode (wordAddr 0x2#4 nnn) = .call nnn ∧
    (s.sp.val < 16 →
      ∃ t, exec (.call nnn) s = .next t ∧ t.pc.toNat = nnn.toNat ∧ t.sp.val = s.sp.val + 1 ∧
        (∀ k : Fin 16, t.stack[k.val] = if k.val = s.sp.val then s.pc else s.stack[k.val]) ∧
        Frame noReg noAddr [.pc, .sp, .stack] s t)

/-- RET with SP > 0 (R103): PC takes the last pushed entry, which keeps its value. -/
def Obligations.ReturnPopsReturnAddress : Prop :=
  ∀ (ign : Nibble) (s : State), decode (wordByte 0x0#4 ign 0xEE#8) = .ret ign ∧
    (s.sp.val > 0 →
      ∃ t, exec (.ret ign) s = .next t ∧ t.sp.val = s.sp.val - 1 ∧
        (∀ k : Fin 16, k.val = s.sp.val - 1 → t.pc = s.stack[k.val]) ∧
        Frame noReg noAddr [.pc, .sp] s t)

/-- CALL with SP = 16 and RET with SP = 0 (R103, R104; 60_exceptions.md R182): the halts
STACK_OVERFLOW (16) and STACK_UNDERFLOW (0), with no other effect (D2, D8). That
a halt is a next state is the model's reading (assumption 9), here and in the statements below. -/
def Obligations.StackViolationsHalt : Prop :=
  (∀ (nnn : Addr) (s : State), s.sp.val = 16 →
    ∃ t, exec (.call nnn) s = .next t ∧ HaltedBy s t (s.pc - 2#16) .stackOverflow 16) ∧
  (∀ (ign : Nibble) (s : State), s.sp.val = 0 →
    ∃ t, exec (.ret ign) s = .next t ∧ HaltedBy s t (s.pc - 2#16) .stackUnderflow 0)

/-- RET after CALL comes back to the instruction after the CALL, at any legal depth, whatever the
subroutine has done to the rest of the state (40_control_flow.md R103, R104). -/
def Obligations.CallThenReturnComesBack : Prop :=
  ∀ (nnn : Addr) (ign : Nibble) (s t u : State), s.sp.val < 16 →
    exec (.call nnn) s = .next t → u.sp = t.sp → u.stack = t.stack →
    ∃ r, exec (.ret ign) u = .next r ∧ r.pc = s.pc ∧ r.sp = s.sp

/-- The four skips (R105-R108, R110): one more word is stepped over exactly when the condition
holds, whatever bits 3-0 of the register forms are (D21). -/
def Obligations.SkipsStepOverOneWord : Prop :=
  ∀ (x y ign : Nibble) (nn : Byte) (s : State),
    (decode (wordByte 0x3#4 x nn) = .seqi x nn ∧ decode (wordByte 0x4#4 x nn) = .snei x nn ∧
      decode (wordNibbles 0x5#4 x y ign) = .seqr x y ign ∧
      decode (wordNibbles 0x9#4 x y ign) = .sner x y ign) ∧
    (∃ t, exec (.seqi x nn) s = .next t ∧ t.pc = (if s.reg x = nn then s.pc + 2#16 else s.pc) ∧
      Frame noReg noAddr [.pc] s t) ∧
    (∃ t, exec (.snei x nn) s = .next t ∧ t.pc = (if s.reg x = nn then s.pc else s.pc + 2#16) ∧
      Frame noReg noAddr [.pc] s t) ∧
    (∃ t, exec (.seqr x y ign) s = .next t ∧
      t.pc = (if s.reg x = s.reg y then s.pc + 2#16 else s.pc) ∧ Frame noReg noAddr [.pc] s t) ∧
    (∃ t, exec (.sner x y ign) s = .next t ∧
      t.pc = (if s.reg x = s.reg y then s.pc else s.pc + 2#16) ∧ Frame noReg noAddr [.pc] s t)

/-- JP V0, nnn (R109): the sum, not reduced modulo 0x1000 (D26). -/
def Obligations.ComputedJumpAddsV0 : Prop :=
  ∀ (nnn : Addr) (s : State), decode (wordAddr 0xB#4 nnn) = .jpv0 nnn ∧
    ∃ t, exec (.jpv0 nnn) s = .next t ∧ t.pc.toNat = (s.reg 0#4).toNat + nnn.toNat ∧
      Frame noReg noAddr [.pc] s t

/-! ## Index register and memory (spec/42_index_memory.md) -/

/-- LD I, nnn (R140). -/
def Obligations.LdidxSetsIndex : Prop :=
  ∀ (nnn : Addr) (s : State), decode (wordAddr 0xA#4 nnn) = .ldidx nnn ∧
    ∃ t, exec (.ldidx nnn) s = .next t ∧ t.i.toNat = nnn.toNat ∧ Frame noReg noAddr [.i] s t

/-- ADD I, Vx (R141): the sum modulo 2^16, VF 1 exactly when the sum is above 0xFFF (D26). -/
def Obligations.AddidxSetsOverflow : Prop :=
  ∀ (x : Nibble) (s : State), decode (wordByte 0xF#4 x 0x1E#8) = .addidx x ∧
    ∃ t, exec (.addidx x) s = .next t ∧
      t.i.toNat = (s.i.toNat + (s.reg x).toNat) % 65536 ∧
      t.reg 0xF#4 = (if s.i.toNat + (s.reg x).toNat > 0xFFF then 1#8 else 0#8) ∧
      Frame (· = 0xF#4) noAddr [.i] s t

/-- LD F, Vx (R142): 5 times Vx, with no masking. -/
def Obligations.FontAddressIsFiveTimesDigit : Prop :=
  ∀ (x : Nibble) (s : State), decode (wordByte 0xF#4 x 0x29#8) = .font x ∧
    ∃ t, exec (.font x) s = .next t ∧ t.i.toNat = 5 * (s.reg x).toNat ∧
      Frame noReg noAddr [.i] s t

/-- LD B, Vx where the three bytes may be written (R143): hundreds, tens and ones at I, I + 1 and
I + 2, and no other byte (D6, D7). -/
def Obligations.BcdStoresDigits : Prop :=
  ∀ (x : Nibble) (s : State), decode (wordByte 0xF#4 x 0x33#8) = .bcd x ∧
    (MemoryOk s → Accessible .write s.i.toNat 3 →
      ∃ t, exec (.bcd x) s = .next t ∧
        (t.mem.read s.i.toNat).toNat = (s.reg x).toNat / 100 ∧
        (t.mem.read (s.i.toNat + 1)).toNat = (s.reg x).toNat / 10 % 10 ∧
        (t.mem.read (s.i.toNat + 2)).toNat = (s.reg x).toNat % 10 ∧
        Frame noReg (span s.i.toNat 3) [] s t)

/-- LD [I], Vx where the bytes may be written (R144): V0..Vx at I .. I + x, I advanced by x + 1
modulo 2^16, and no other byte or register (D6, D7, D26). -/
def Obligations.StregsStoresRegisters : Prop :=
  ∀ (x : Nibble) (s : State), decode (wordByte 0xF#4 x 0x55#8) = .stregs x ∧
    (MemoryOk s → Accessible .write s.i.toNat (x.toNat + 1) →
      ∃ t, exec (.stregs x) s = .next t ∧
        (∀ k : Nibble, k.toNat ≤ x.toNat → t.mem.read (s.i.toNat + k.toNat) = s.reg k) ∧
        t.i.toNat = (s.i.toNat + x.toNat + 1) % 65536 ∧
        Frame noReg (span s.i.toNat (x.toNat + 1)) [.i] s t)

/-- LD Vx, [I] where the bytes may be read (R145): V0..Vx from I .. I + x, I advanced by x + 1
modulo 2^16, and no other register and no byte of memory (D6, D26). -/
def Obligations.LdregsLoadsRegisters : Prop :=
  ∀ (x : Nibble) (s : State), decode (wordByte 0xF#4 x 0x65#8) = .ldregs x ∧
    (Accessible .read s.i.toNat (x.toNat + 1) →
      ∃ t, exec (.ldregs x) s = .next t ∧
        (∀ k : Nibble, k.toNat ≤ x.toNat → t.reg k = s.mem.read (s.i.toNat + k.toNat)) ∧
        t.i.toNat = (s.i.toNat + x.toNat + 1) % 65536 ∧
        Frame (fun r => r.toNat ≤ x.toNat) noAddr [.i] s t)

/-- An access through I that fails halts at its lowest failing address, with that address's cause,
and the instruction has no effect (20_memory.md R53; D2, D6, D7; assumption 9); an access set that
has no failing address is accessible. -/
def Obligations.FailingAccessHalts : Prop :=
  (∀ (kind : Access) (base n : Nat),
    Accessible kind base n ∨ ∃ a cause, IsFirstFailure kind base n a cause) ∧
  ∀ (s : State) (x y n : Nibble) (a : Nat) (cause : HaltCause),
    (IsFirstFailure .write s.i.toNat 3 a cause →
      ∃ t, exec (.bcd x) s = .next t ∧ HaltedBy s t (s.pc - 2#16) cause a) ∧
    (IsFirstFailure .write s.i.toNat (x.toNat + 1) a cause →
      ∃ t, exec (.stregs x) s = .next t ∧ HaltedBy s t (s.pc - 2#16) cause a) ∧
    (IsFirstFailure .read s.i.toNat (x.toNat + 1) a cause →
      ∃ t, exec (.ldregs x) s = .next t ∧ HaltedBy s t (s.pc - 2#16) cause a) ∧
    (IsFirstFailure .read s.i.toNat n.toNat a cause →
      ∃ t, exec (.drw x y n) s = .next t ∧ HaltedBy s t (s.pc - 2#16) cause a)

/-- A byte that LD [I], Vx stores is fetched by the very next fetch that covers it, in its
big-endian half (20_memory.md R58, R64; D23). -/
def Obligations.StoredBytesAreFetchedBigEndian : Prop :=
  ∀ (x k j : Nibble) (s t : State), MemoryOk s → Accessible .write s.i.toNat (x.toNat + 1) →
    exec (.stregs x) s = .next t → k.toNat < x.toNat → j.toNat = k.toNat + 1 →
    t.mem.readWord (s.i.toNat + k.toNat) = s.reg k ++ s.reg j

/-- For a digit d up to 0xF, LD F, Vx and then LD V4, [I] loads the five bytes of FONT for d
(42_index_memory.md R142). FONT is open: the statement holds for every font. -/
def Obligations.FontGlyphIsLoaded : Prop :=
  ∀ (x : Nibble) (s t : State), FontIntact s → (s.reg x).toNat ≤ 0xF →
    exec (.font x) s = .next t →
    ∃ u, exec (.ldregs 4) t = .next u ∧
      ∀ k : Nibble, k.toNat < 5 → u.reg k = Config.font (5 * (s.reg x).toNat + k.toNat)

/-! ## Display (spec/43_display.md) -/

/-- CLS (R155): every pixel off and DIRTY set, even on a clear screen (D27). -/
def Obligations.ClsClearsScreen : Prop :=
  ∀ (ign : Nibble) (s : State), decode (wordByte 0x0#4 ign 0xE0#8) = .cls ign ∧
    ∃ t, exec (.cls ign) s = .next t ∧ (∀ col row, t.fb.pixel col row = false) ∧
      t.dirty = true ∧ Frame noReg noAddr [.fb, .dirty] s t

/-- DRW Vx, Vy, n where the sprite may be read (R156, R157, R158): exactly the pixels that a 1 of
the sprite lands on are inverted, VF is 1 exactly when one of them was on, and DIRTY is set when
there is one (D6, D12, G5). -/
def Obligations.DrwBlitsSprite : Prop :=
  ∀ (x y n : Nibble) (s : State), decode (wordNibbles 0xD#4 x y n) = .drw x y n ∧
    (Accessible .read s.i.toNat n.toNat →
      ∃ t, exec (.drw x y n) s = .next t ∧
        (∀ col row, t.fb.pixel col row = true ↔
          (s.fb.pixel col row = true ↔ ¬ SpriteHits s x y n col row)) ∧
        ((t.reg 0xF#4 = 1#8 ∧ ∃ col row, s.fb.pixel col row = true ∧ SpriteHits s x y n col row) ∨
          (t.reg 0xF#4 = 0#8 ∧
            ∀ col row, s.fb.pixel col row = true → ¬ SpriteHits s x y n col row)) ∧
        (t.dirty = true ↔ s.dirty = true ∨ ∃ col row, SpriteHits s x y n col row) ∧
        Frame (· = 0xF#4) noAddr [.fb, .dirty] s t)

/-- A second DRW of the same sprite at the same place restores the framebuffer (R159). Between the
two, anything may change but the framebuffer, I, the sprite's bytes and the coordinates. The
second VF is what R158 makes of it: 1 exactly when a 1 of the sprite lands on a pixel that was off
before the first DRW. Where every pixel under the sprite was off, that is R159's own sentence, 1
exactly when the sprite has a 1 bit; R159 leaves out pixels that were on (assumption 19). -/
def Obligations.SecondDrwRestoresScreen : Prop :=
  ∀ (x y n : Nibble) (s t u : State), Accessible .read s.i.toNat n.toNat →
    exec (.drw x y n) s = .next t →
    u.fb = t.fb → u.i = s.i → u.reg x = s.reg x → u.reg y = s.reg y →
    (∀ r < n.toNat, u.mem.read (s.i.toNat + r) = s.mem.read (s.i.toNat + r)) →
    ∃ z, exec (.drw x y n) u = .next z ∧ z.fb = s.fb ∧
      (z.reg 0xF#4 = 1#8 ↔
        ∃ col row, s.fb.pixel col row = false ∧ SpriteHits s x y n col row) ∧
      ((∀ col row, SpriteHits s x y n col row → s.fb.pixel col row = false) →
        (z.reg 0xF#4 = 1#8 ↔ ∃ r < n.toNat, s.mem.read (s.i.toNat + r) ≠ 0#8))

/-! ## Timers and keys (spec/44_timers_keys.md) -/

/-- SKP and SKNP with Vx up to 0xF (R165, R166): a skip exactly when key Vx is pressed, or is not. -/
def Obligations.KeySkipsReadKeyState : Prop :=
  ∀ (x : Nibble) (s : State),
    (decode (wordByte 0xE#4 x 0x9E#8) = .skp x ∧ decode (wordByte 0xE#4 x 0xA1#8) = .sknp x) ∧
    ((s.reg x).toNat ≤ 0xF →
      (∃ t, exec (.skp x) s = .next t ∧
        t.pc = (if s.key.getLsbD (s.reg x).toNat then s.pc + 2#16 else s.pc) ∧
        Frame noReg noAddr [.pc] s t) ∧
      (∃ t, exec (.sknp x) s = .next t ∧
        t.pc = (if s.key.getLsbD (s.reg x).toNat then s.pc else s.pc + 2#16) ∧
        Frame noReg noAddr [.pc] s t))

/-- SKP and SKNP with Vx above 0xF halt KEY_RANGE (Vx), with no other effect (R171; D9; assumption
9). -/
def Obligations.KeyOutOfRangeHalts : Prop :=
  ∀ (x : Nibble) (s : State), (s.reg x).toNat > 0xF →
    (∃ t, exec (.skp x) s = .next t ∧ HaltedBy s t (s.pc - 2#16) .keyRange (s.reg x).toNat) ∧
    (∃ t, exec (.sknp x) s = .next t ∧ HaltedBy s t (s.pc - 2#16) .keyRange (s.reg x).toNat)

/-- LD Vx, DT, LD DT, Vx and LD ST, Vx (R167, R169, R170): TONE stays as it is. -/
def Obligations.TimerMoves : Prop :=
  ∀ (x : Nibble) (s : State),
    (decode (wordByte 0xF#4 x 0x07#8) = .getdt x ∧ decode (wordByte 0xF#4 x 0x15#8) = .setdt x ∧
      decode (wordByte 0xF#4 x 0x18#8) = .setst x) ∧
    (∃ t, exec (.getdt x) s = .next t ∧ t.reg x = s.dt ∧ Frame (· = x) noAddr [] s t) ∧
    (∃ t, exec (.setdt x) s = .next t ∧ t.dt = s.reg x ∧ Frame noReg noAddr [.dt] s t) ∧
    (∃ t, exec (.setst x) s = .next t ∧ t.st = s.reg x ∧ Frame noReg noAddr [.st] s t)

/-- LD Vx, K (R168): with no key pressed PC goes back to the instruction and nothing else changes;
otherwise Vx takes a pressed key, a function of KEY alone. Which function is open (D10, G6; assumption 7). -/
def Obligations.WaitkTakesPressedKey : Prop :=
  ∃ select : Keys → Nat,
    (∀ keys : Keys, keys ≠ 0 → select keys < 16 ∧ keys.getLsbD (select keys) = true) ∧
    ∀ (x : Nibble) (s : State), decode (wordByte 0xF#4 x 0x0A#8) = .waitk x ∧
      (s.key = 0 →
        ∃ t, exec (.waitk x) s = .next t ∧ t.pc = s.pc - 2#16 ∧ Frame noReg noAddr [.pc] s t) ∧
      (s.key ≠ 0 →
        ∃ t, exec (.waitk x) s = .next t ∧ (t.reg x).toNat = select s.key ∧
          Frame (· = x) noAddr [] s t)

/-! ## The step (spec/60_exceptions.md R188; 20_memory.md) -/

/-- In a batch, with PC in bounds, a step runs the instruction that the two bytes at PC decode to, on
the state with PC advanced by 2, and takes one unit of the budget afterwards (R188). -/
def Obligations.StepRunsDecodedInstruction : Prop :=
  ∀ (s : State) (i : Instr), InBatch s → s.pc.toNat ≤ 0xFFE → i.wf = true →
    decodeBytes [s.mem.read s.pc.toNat, s.mem.read (s.pc.toNat + 1)] = .ok (i, []) →
    (∀ t, exec i { s with pc := s.pc + 2#16 } = .next t →
      step s = .next { t with budget := t.budget - 1 }) ∧
    (∀ r, exec i { s with pc := s.pc + 2#16 } = .fault r → step s = .fault r) ∧
    (∀ r, exec i { s with pc := s.pc + 2#16 } = .refused r → step s = .refused r)

/-- A fetch with PC above 0xFFE halts FETCH_BOUNDS (PC), and PC keeps its value (20_memory.md
R54; D4; assumption 9). -/
def Obligations.FetchOutOfBoundsHalts : Prop :=
  ∀ s : State, InBatch s → s.pc.toNat > 0xFFE →
    ∃ t, step s = .next t ∧ HaltedBy s t s.pc .fetchBounds s.pc.toNat

/-- Every instruction in every state and every step of the machine has a next state: no encoding traps
(30_encoding.md R83, R91), a halt has the effect of R180, and outside a batch the engine does what
R184, R186, R190 and 70_reset_and_hazards.md R220 say of its state. That a halt is a next state and
that nothing faults is the model's reading (assumption 9), and that the machine waits in its state
while nothing is presented is the model's choice (assumption 2). -/
def Obligations.EveryStepHasNextState : Prop :=
  (∀ (i : Instr) (s : State), ∃ t, exec i s = .next t) ∧ ∀ s : State, ∃ t, step s = .next t

/-- Halts are precise (R180): whatever the instruction in a batch, a step that ends HALTED has
discarded every effect of it, PC and HALT_PC are its address, and a cause is recorded (D2,
D3, D18; assumption 9). That BUDGET stays 0 is the model's reading (assumption 21). -/
def Obligations.HaltsArePrecise : Prop :=
  ∀ s t : State, InBatch s → step s = .next t → t.es = .halted →
    ∃ cause addr, cause ≠ .none ∧ HaltedBy s t s.pc cause addr

/-- An instruction that does not halt costs one unit of the budget and leaves KEY, TONE, the halt
record and the interface's records alone (10_state.md R36; R191, R193, R195). The inputs to come and
the records of PRESENT and of a failed load are the model's own (assumptions 2, 16, 17). -/
def Obligations.InstructionCostsOneBudgetUnit : Prop :=
  ∀ s t : State, InBatch s → step s = .next t → t.es ≠ .halted →
    t.budget = s.budget - 1 ∧ SameEngine s { t with budget := s.budget }

/-- A batch ends: it executes exactly as many instructions as its budget, or fewer if one halts
(R193). That one step is one instruction is the model's choice (assumption 1), and that BUDGET stays
0 after a halt its reading (assumption 21). -/
def Obligations.BatchRunsItsBudget : Prop :=
  ∀ s : State, s.es = .running →
    ∃ m t, m ≤ s.budget ∧ Host.Core.run core m s = .next t ∧
      (∀ j < m, ∃ u, Host.Core.run core j s = .next u ∧ u.es = .running ∧
        u.budget = s.budget - j) ∧
      ((t.es = .running ∧ t.budget = 0 ∧ m = s.budget) ∨ (t.es = .halted ∧ t.budget = 0))

/-! ## The engine (spec/60_exceptions.md R184-R198; 70_reset_and_hazards.md) -/

/-- A poll with a FRAME event and no QUIT starts a frame (R190, R192, R195): KEY is sampled, each
timer is decremented and clamped at 0, TONE tells whether the decremented ST is nonzero, and the
budget is IPF, at least 1 (D16, D17). That a poll is an entry of the input list and one step is the
model's choice (assumptions 1, 2). -/
def Obligations.FrameEventStartsBatch : Prop :=
  ∀ (s : State) (keys : Keys) (rest : List Input), AtPoll s →
    s.inputs = .poll keys false true :: rest →
    ∃ t, step s = .next t ∧ t.key = keys ∧ t.dt.toNat = s.dt.toNat - 1 ∧
      t.st.toNat = s.st.toNat - 1 ∧ (t.tone = true ↔ t.st ≠ 0) ∧ t.budget = Config.ipf ∧
      1 ≤ t.budget ∧ t.es = .running ∧ t.inputs = rest ∧ SameProgram s t ∧ NoPresent s t

/-- A poll samples KEY; QUIT is acted on before a FRAME is examined and terminates the engine with
TONE 0; a poll with neither changes nothing else (R183, R190, R198;
D17, D25). That a poll is an entry of the input list and one step is the model's choice (assumptions
1, 2). -/
def Obligations.PollSamplesKeysAndQuitsFirst : Prop :=
  ∀ (s : State) (keys : Keys) (quit frame : Bool) (rest : List Input), AtPoll s →
    s.inputs = .poll keys quit frame :: rest → quit = true ∨ frame = false →
    ∃ t, step s = .next t ∧ t.key = keys ∧ t.dt = s.dt ∧ t.st = s.st ∧ t.budget = 0 ∧
      t.es = (if quit then .terminated else .running) ∧
      t.tone = (if quit then false else s.tone) ∧
      t.inputs = rest ∧ SameProgram s t ∧ NoPresent s t

/-- After a batch with DIRTY set, PRESENT is raised once with the framebuffer as the last instruction
left it, and DIRTY is cleared (R194; 43_display.md R160; D17). The record of PRESENT is the model's
(assumption 16), and so is that PRESENT is the next step in every such state (assumptions 1, 23). -/
def Obligations.DirtyBatchIsPresented : Prop :=
  ∀ s : State, s.es = .running → s.budget = 0 → s.dirty = true →
    ∃ t, step s = .next t ∧ t.presents = s.presents + 1 ∧ t.presented = s.fb ∧
      t.dirty = false ∧ t.es = .running ∧ t.budget = 0 ∧ t.key = s.key ∧ t.dt = s.dt ∧
      t.st = s.st ∧ t.tone = s.tone ∧ t.inputs = s.inputs ∧ SameProgram s t

/-- In HALTED, FRAME changes nothing and QUIT terminates; in TERMINATED nothing but RESET has an
effect (R184, R186; D18, D25). A load writes only in RESET (70_reset_and_hazards.md R221): in
RUNNING between batches and in HALTED, LOAD and LOAD_FAIL have no effect. In RESET a poll has none,
and wherever nothing is presented the machine waits. That the poll leaves KEY as it was outside
RUNNING, that an ignored input is used up, and that the machine waits for the next input, are the
model's choices (assumptions 14, 15, 2). -/
def Obligations.HaltedAndTerminatedStandStill : Prop :=
  (∀ (s : State) (keys : Keys) (quit frame : Bool) (rest : List Input), s.es = .halted →
    s.inputs = .poll keys quit frame :: rest →
    ∃ t, step s = .next t ∧ t.es = (if quit then .terminated else .halted) ∧
      t.tone = (if quit then false else s.tone) ∧ t.dt = s.dt ∧ t.st = s.st ∧
      t.key = s.key ∧ t.budget = s.budget ∧ t.inputs = rest ∧ SameProgram s t ∧
      NoPresent s t) ∧
  (∀ (s : State) (inp : Input) (rest : List Input), s.es = .terminated →
    s.inputs = inp :: rest → inp ≠ .reset → step s = .next { s with inputs := rest }) ∧
  (∀ (s : State) (inp : Input) (rest : List Input), AtPoll s ∨ s.es = .halted →
    s.inputs = inp :: rest → inp = .loadFail ∨ (∃ image, inp = .load image) →
    step s = .next { s with inputs := rest }) ∧
  (∀ (s : State) (keys : Keys) (quit frame : Bool) (rest : List Input), s.es = .reset →
    s.inputs = .poll keys quit frame :: rest → step s = .next { s with inputs := rest }) ∧
  (∀ s : State, AtPoll s ∨ s.es ≠ .running → s.inputs = [] → step s = .next s)

/-- RESET outside a batch runs the reset sequence from every engine state: every piece of the CORE's
state takes the value of 10_state.md R37, and ES is RESET until the load (R220; D14, D29). That RESET is taken only outside
a batch is the model's reading (assumption 3). -/
def Obligations.ResetEventRestoresResetValues : Prop :=
  ∀ (s : State) (rest : List Input), (s.es = .running → s.budget = 0 ∧ s.dirty = false) →
    s.inputs = .reset :: rest →
    ∃ t, step s = .next t ∧
      (∀ r, t.reg r = 0) ∧ t.i = 0 ∧ t.pc = 0x200 ∧ t.sp.val = 0 ∧
      (∀ k : Fin 16, t.stack[k.val] = 0) ∧ t.dt = 0 ∧ t.st = 0 ∧
      (∀ a, t.mem.read a = if a < 0x50 then Config.font a else 0) ∧
      (∀ col row, t.fb.pixel col row = false) ∧ t.dirty = false ∧ t.tone = false ∧ t.key = 0 ∧
      t.es = .reset ∧ t.haltCause = .none ∧ t.haltPc = 0 ∧ t.haltAddr = 0 ∧ t.budget = 0 ∧
      t.inputs = rest

/-- A load of at most MaxImage bytes in ES = RESET (R221, R222): byte k of the image at 0x200 + k,
zero after it, memory below it and everything else in the CORE as they were, and ES is RUNNING
(D19, D29). The record of a failed load is the model's (assumption 17), and the model's load itself
clears the program region first, which the spec leaves to the RESET before it (assumption 13). -/
def Obligations.LoadPlacesImage : Prop :=
  ∀ (s : State) (image : List Byte) (rest : List Input), s.es = .reset → MemoryOk s →
    s.inputs = .load image :: rest → image.length ≤ 0xDFF →
    ∃ t, step s = .next t ∧ t.es = .running ∧ t.loadFailed = false ∧ t.inputs = rest ∧
      (∀ k (h : k < image.length), t.mem.read (0x200 + k) = image[k]) ∧
      (∀ a, 0x200 + image.length ≤ a → t.mem.read a = 0) ∧
      (∀ a < 0x200, t.mem.read a = s.mem.read a) ∧ OnlyLoadWrites s t

/-- LOAD_FAIL, or an image longer than MaxImage (R222, R223): no part of it is loaded, the failure is
reported, the program region is all zero, everything else in the CORE is as it was, and the CORE
starts (D19). The record of the report is the model's (assumption 17), and so is the clearing of
the program region in every RESET state (assumption 13). -/
def Obligations.FailedLoadStartsEmpty : Prop :=
  ∀ (s : State) (inp : Input) (rest : List Input), s.es = .reset → s.inputs = inp :: rest →
    (inp = .loadFail ∨ ∃ image : List Byte, inp = .load image ∧ image.length > 0xDFF) →
    ∃ t, step s = .next t ∧ t.es = .running ∧ t.loadFailed = true ∧ t.inputs = rest ∧
      (∀ a, 0x200 ≤ a → t.mem.read a = 0) ∧ (∀ a < 0x200, t.mem.read a = s.mem.read a) ∧
      OnlyLoadWrites s t

/-- The timer decay law (R192, R195, R196): after any run in which k frames start, no RESET is taken
and no instruction writes the timer, the timer has lost k and stays at 0, whatever batches stand
between the frames; and after at least one frame, while RUNNING, TONE is on exactly when ST was
above k. That RESET is taken only outside a batch is the model's reading (assumption 3). -/
def Obligations.TimersDecayToZero : Prop :=
  (∀ (k : Nat) (s t : State), FrameRun (fun i => ∃ x, i = .setdt x) k s t →
    t.dt.toNat = s.dt.toNat - k) ∧
  (∀ (k : Nat) (s t : State), FrameRun (fun i => ∃ x, i = .setst x) k s t →
    t.st.toNat = s.st.toNat - k ∧
      (0 < k → t.es = .running → (t.tone = true ↔ k < s.st.toNat)))

/-- The host's placed word is what runs next (the model's own; assumption 4): after `withFetchWord`
the next step is the meaning of the instruction the word decodes to. -/
def Obligations.PlacedWordRunsNext : Prop :=
  ∀ (s : State) (w : Word), MemoryOk s →
    ∃ t, exec (decode w) (s.withFetchWord 16 w.toNat).advance = .next t ∧
      step (s.withFetchWord 16 w.toNat) = .next { t with budget := t.budget - 1 }

/-! ## Invariants and whole-machine rules -/

/-- Every step keeps memory in its canonical form. The form is the model's (assumption 13). -/
def Obligations.StepKeepsMemoryCanonical : Prop :=
  ∀ s t : State, MemoryOk s → step s = .next t → MemoryOk t

/-- The font region holds FONT after every step (20_memory.md R51, R53; conflict C9; D7). FONT is
open (assumption 5), and is what the font region reads as while memory lists none of it
(assumption 13). -/
def Obligations.StepKeepsFont : Prop :=
  ∀ s t : State, FontIntact s → step s = .next t → FontIntact t

/-- No instruction can carry PC past 0x10FE (10_state.md R25). -/
def Obligations.StepKeepsPcBound : Prop :=
  ∀ s t : State, PcOk s → step s = .next t → PcOk t

/-- ES, TONE, BUDGET and the halt record agree after every step (10_state.md R34, R35;
60_exceptions.md R180, R195; D3, D17, D18). -/
def Obligations.StepKeepsEngineConsistent : Prop :=
  ∀ s t : State, EngineOk s → step s = .next t → EngineOk t

/-- In ES = RESET every piece of the CORE's state is at its reset value (10_state.md R37;
D14). The model's own records of the outside world are left free (assumption 17). -/
def Obligations.StepKeepsResetValuesInReset : Prop :=
  ∀ s t : State, ResetOk s → step s = .next t → ResetOk t

/-- The state right after reset meets every invariant (10_state.md R37). The form of memory is the
model's (assumption 13). -/
def Obligations.ResetMeetsInvariants : Prop :=
  MemoryOk State.reset ∧ FontIntact State.reset ∧ PcOk State.reset ∧ EngineOk State.reset ∧
    ResetOk State.reset

/-- FB, DIRTY, SP and the stack, I, memory, DT, ST, the registers and the count of draws are each
written by their own instructions only (10_state.md R20, R24, R26, R30, R31; 20_memory.md R60;
60_exceptions.md R192). The count of draws is the model's own (assumption 8). -/
def Obligations.OnlyTheirInstructionsWrite : Prop :=
  ∀ (i : Instr) (s t : State), exec i s = .next t →
    (t.fb ≠ s.fb ∨ t.dirty ≠ s.dirty → mnemonic i ∈ ["CLS", "DRW"]) ∧
    (t.sp ≠ s.sp ∨ t.stack ≠ s.stack → mnemonic i ∈ ["CALL", "RET"]) ∧
    (t.i ≠ s.i → mnemonic i ∈ ["LDIDX", "ADDIDX", "FONT", "STREGS", "LDREGS"]) ∧
    (t.mem ≠ s.mem → mnemonic i ∈ ["BCD", "STREGS"]) ∧
    (t.dt ≠ s.dt → mnemonic i = "SETDT") ∧ (t.st ≠ s.st → mnemonic i = "SETST") ∧
    (t.draws ≠ s.draws → mnemonic i = "RND") ∧
    (t.v ≠ s.v → mnemonic i ∈ ["MOVI", "ADDI", "MOV", "OR", "AND", "XOR", "ADD", "SUB", "SHR",
      "SUBN", "SHL", "RND", "ADDIDX", "DRW", "GETDT", "WAITK", "LDREGS"])

/-- VF is written only by the seven flag-setting instructions, or as data by an instruction whose
destination x is 15 (10_state.md R22). -/
def Obligations.OnlyFlagSettersOrDataWriteVf : Prop :=
  ∀ (i : Instr) (s t : State), exec i s = .next t → t.reg 0xF#4 ≠ s.reg 0xF#4 →
    mnemonic i ∈ ["ADD", "SUB", "SHR", "SUBN", "SHL", "DRW", "ADDIDX"] ∨
    (mnemonic i ∈ ["MOVI", "ADDI", "MOV", "OR", "AND", "XOR", "RND", "GETDT", "WAITK", "LDREGS"] ∧
      fieldX (encode i) = 0xF#4)
end

