-- ==== Sys2Proof/Laws/Encoding.lean ====
section
/-!
SUPPORT. The fields of a word built from fields, and a word rebuilt from its own fields: what every
proof about decoding and encoding rests on.
-/

namespace Sys2Proof

/-! ## The fields of a built word -/

@[simp] theorem fieldOp_wordByte (a b : Nibble) (c : Byte) : fieldOp (wordByte a b c) = a := by
  apply BitVec.eq_of_getLsbD_eq; intro i hi
  simp only [fieldOp, wordByte, BitVec.getLsbD_extractLsb', BitVec.getLsbD_append]
  interval_cases i <;> simp

@[simp] theorem fieldX_wordByte (a b : Nibble) (c : Byte) : fieldX (wordByte a b c) = b := by
  apply BitVec.eq_of_getLsbD_eq; intro i hi
  simp only [fieldX, wordByte, BitVec.getLsbD_extractLsb', BitVec.getLsbD_append]
  interval_cases i <;> simp

@[simp] theorem fieldNN_wordByte (a b : Nibble) (c : Byte) : fieldNN (wordByte a b c) = c := by
  apply BitVec.eq_of_getLsbD_eq; intro i hi
  simp only [fieldNN, wordByte, BitVec.getLsbD_extractLsb', BitVec.getLsbD_append]
  interval_cases i <;> simp

@[simp] theorem fieldOp_wordAddr (a : Nibble) (b : Addr) : fieldOp (wordAddr a b) = a := by
  apply BitVec.eq_of_getLsbD_eq; intro i hi
  simp only [fieldOp, wordAddr, BitVec.getLsbD_extractLsb', BitVec.getLsbD_append]
  interval_cases i <;> simp

@[simp] theorem fieldNNN_wordAddr (a : Nibble) (b : Addr) : fieldNNN (wordAddr a b) = b := by
  apply BitVec.eq_of_getLsbD_eq; intro i hi
  simp only [fieldNNN, wordAddr, BitVec.getLsbD_extractLsb', BitVec.getLsbD_append]
  interval_cases i <;> simp

@[simp] theorem fieldNN_wordAddr (a : Nibble) (b : Addr) :
    fieldNN (wordAddr a b) = b.extractLsb' 0 8 := by
  apply BitVec.eq_of_getLsbD_eq; intro i hi
  simp only [fieldNN, wordAddr, BitVec.getLsbD_extractLsb', BitVec.getLsbD_append]
  interval_cases i <;> simp

@[simp] theorem fieldN_wordAddr (a : Nibble) (b : Addr) :
    fieldN (wordAddr a b) = b.extractLsb' 0 4 := by
  apply BitVec.eq_of_getLsbD_eq; intro i hi
  simp only [fieldN, wordAddr, BitVec.getLsbD_extractLsb', BitVec.getLsbD_append]
  interval_cases i <;> simp

@[simp] theorem fieldOp_wordNibbles (a b c d : Nibble) : fieldOp (wordNibbles a b c d) = a := by
  apply BitVec.eq_of_getLsbD_eq; intro i hi
  simp only [fieldOp, wordNibbles, BitVec.getLsbD_extractLsb', BitVec.getLsbD_append]
  interval_cases i <;> simp

@[simp] theorem fieldX_wordNibbles (a b c d : Nibble) : fieldX (wordNibbles a b c d) = b := by
  apply BitVec.eq_of_getLsbD_eq; intro i hi
  simp only [fieldX, wordNibbles, BitVec.getLsbD_extractLsb', BitVec.getLsbD_append]
  interval_cases i <;> simp

@[simp] theorem fieldY_wordNibbles (a b c d : Nibble) : fieldY (wordNibbles a b c d) = c := by
  apply BitVec.eq_of_getLsbD_eq; intro i hi
  simp only [fieldY, wordNibbles, BitVec.getLsbD_extractLsb', BitVec.getLsbD_append]
  interval_cases i <;> simp

@[simp] theorem fieldN_wordNibbles (a b c d : Nibble) : fieldN (wordNibbles a b c d) = d := by
  apply BitVec.eq_of_getLsbD_eq; intro i hi
  simp only [fieldN, wordNibbles, BitVec.getLsbD_extractLsb', BitVec.getLsbD_append]
  interval_cases i <;> simp

/-! ## A word rebuilt from its fields -/

theorem wordByte_fields (w : Word) : wordByte (fieldOp w) (fieldX w) (fieldNN w) = w := by
  apply BitVec.eq_of_getLsbD_eq; intro i hi
  simp only [fieldOp, fieldX, fieldNN, wordByte, BitVec.getLsbD_extractLsb',
    BitVec.getLsbD_append]
  interval_cases i <;> simp

theorem wordAddr_fields (w : Word) : wordAddr (fieldOp w) (fieldNNN w) = w := by
  apply BitVec.eq_of_getLsbD_eq; intro i hi
  simp only [fieldOp, fieldNNN, wordAddr, BitVec.getLsbD_extractLsb', BitVec.getLsbD_append]
  interval_cases i <;> simp

theorem wordNibbles_fields (w : Word) :
    wordNibbles (fieldOp w) (fieldX w) (fieldY w) (fieldN w) = w := by
  apply BitVec.eq_of_getLsbD_eq; intro i hi
  simp only [fieldOp, fieldX, fieldY, fieldN, wordNibbles, BitVec.getLsbD_extractLsb',
    BitVec.getLsbD_append]
  interval_cases i <;> simp

@[simp] theorem fieldNNN_low8 (w : Word) : (fieldNNN w).extractLsb' 0 8 = fieldNN w := by
  apply BitVec.eq_of_getLsbD_eq; intro i hi
  simp only [fieldNNN, fieldNN, BitVec.getLsbD_extractLsb']
  interval_cases i <;> simp

@[simp] theorem fieldNNN_low4 (w : Word) : (fieldNNN w).extractLsb' 0 4 = fieldN w := by
  apply BitVec.eq_of_getLsbD_eq; intro i hi
  simp only [fieldNNN, fieldN, BitVec.getLsbD_extractLsb']
  interval_cases i <;> simp

/-! ## The masks of the opcode map -/

/-- A word matches a primary-only row exactly when it has that primary (R84). -/
theorem mask_primary (w : Word) (op : Nibble) :
    w &&& 0xF000#16 = wordNibbles op 0#4 0#4 0#4 ↔ fieldOp w = op := by
  constructor
  · intro h
    have := congrArg fieldOp h
    rw [fieldOp_wordNibbles] at this
    rw [← this]
    apply BitVec.eq_of_getLsbD_eq; intro i hi
    simp only [fieldOp, BitVec.getLsbD_extractLsb', BitVec.getLsbD_and]
    interval_cases i <;> simp
  · rintro rfl
    apply BitVec.eq_of_getLsbD_eq; intro i hi
    simp only [fieldOp, wordNibbles, BitVec.getLsbD_extractLsb', BitVec.getLsbD_append,
      BitVec.getLsbD_and]
    interval_cases i <;> simp

/-- A word matches a byte-selected row exactly when it has that primary and low byte (R85, R87,
R88). -/
theorem mask_byte (w : Word) (op : Nibble) (b : Byte) :
    w &&& 0xF0FF#16 = wordByte op 0#4 b ↔ fieldOp w = op ∧ fieldNN w = b := by
  constructor
  · intro h
    have h1 := congrArg fieldOp h
    have h2 := congrArg fieldNN h
    rw [fieldOp_wordByte] at h1
    rw [fieldNN_wordByte] at h2
    rw [← h1, ← h2]
    constructor
    · apply BitVec.eq_of_getLsbD_eq; intro i hi
      simp only [fieldOp, BitVec.getLsbD_extractLsb', BitVec.getLsbD_and]
      interval_cases i <;> simp
    · apply BitVec.eq_of_getLsbD_eq; intro i hi
      simp only [fieldNN, BitVec.getLsbD_extractLsb', BitVec.getLsbD_and]
      interval_cases i <;> simp
  · rintro ⟨rfl, rfl⟩
    apply BitVec.eq_of_getLsbD_eq; intro i hi
    simp only [fieldOp, fieldNN, wordByte, BitVec.getLsbD_extractLsb', BitVec.getLsbD_append,
      BitVec.getLsbD_and]
    interval_cases i <;> simp

/-- A word matches a nibble-selected row exactly when it has that primary and low nibble (R86). -/
theorem mask_nibble (w : Word) (op n : Nibble) :
    w &&& 0xF00F#16 = wordNibbles op 0#4 0#4 n ↔ fieldOp w = op ∧ fieldN w = n := by
  constructor
  · intro h
    have h1 := congrArg fieldOp h
    have h2 := congrArg fieldN h
    rw [fieldOp_wordNibbles] at h1
    rw [fieldN_wordNibbles] at h2
    rw [← h1, ← h2]
    constructor
    · apply BitVec.eq_of_getLsbD_eq; intro i hi
      simp only [fieldOp, BitVec.getLsbD_extractLsb', BitVec.getLsbD_and]
      interval_cases i <;> simp
    · apply BitVec.eq_of_getLsbD_eq; intro i hi
      simp only [fieldN, BitVec.getLsbD_extractLsb', BitVec.getLsbD_and]
      interval_cases i <;> simp
  · rintro ⟨rfl, rfl⟩
    apply BitVec.eq_of_getLsbD_eq; intro i hi
    simp only [fieldOp, fieldN, wordNibbles, BitVec.getLsbD_extractLsb', BitVec.getLsbD_append,
      BitVec.getLsbD_and]
    interval_cases i <;> simp

end Sys2Proof
end

