-- ==== Sys2Proof/Laws/State.lean ====
section
/-!
SUPPORT. One lemma per field per update of the state, true by definition, so that no proof unfolds a
record update; and the register file's read after write.
-/

namespace Sys2Proof.Machine

/-! ## setReg -/

@[simp] theorem State.setReg_i (s : State) (x : Nibble) (b : Byte) : (s.setReg x b).i = s.i := rfl
@[simp] theorem State.setReg_pc (s : State) (x : Nibble) (b : Byte) :
    (s.setReg x b).pc = s.pc := rfl
@[simp] theorem State.setReg_sp (s : State) (x : Nibble) (b : Byte) :
    (s.setReg x b).sp = s.sp := rfl
@[simp] theorem State.setReg_stack (s : State) (x : Nibble) (b : Byte) :
    (s.setReg x b).stack = s.stack := rfl
@[simp] theorem State.setReg_mem (s : State) (x : Nibble) (b : Byte) :
    (s.setReg x b).mem = s.mem := rfl
@[simp] theorem State.setReg_dt (s : State) (x : Nibble) (b : Byte) :
    (s.setReg x b).dt = s.dt := rfl
@[simp] theorem State.setReg_st (s : State) (x : Nibble) (b : Byte) :
    (s.setReg x b).st = s.st := rfl
@[simp] theorem State.setReg_key (s : State) (x : Nibble) (b : Byte) :
    (s.setReg x b).key = s.key := rfl
@[simp] theorem State.setReg_fb (s : State) (x : Nibble) (b : Byte) :
    (s.setReg x b).fb = s.fb := rfl
@[simp] theorem State.setReg_dirty (s : State) (x : Nibble) (b : Byte) :
    (s.setReg x b).dirty = s.dirty := rfl
@[simp] theorem State.setReg_tone (s : State) (x : Nibble) (b : Byte) :
    (s.setReg x b).tone = s.tone := rfl
@[simp] theorem State.setReg_es (s : State) (x : Nibble) (b : Byte) :
    (s.setReg x b).es = s.es := rfl
@[simp] theorem State.setReg_haltCause (s : State) (x : Nibble) (b : Byte) :
    (s.setReg x b).haltCause = s.haltCause := rfl
@[simp] theorem State.setReg_haltPc (s : State) (x : Nibble) (b : Byte) :
    (s.setReg x b).haltPc = s.haltPc := rfl
@[simp] theorem State.setReg_haltAddr (s : State) (x : Nibble) (b : Byte) :
    (s.setReg x b).haltAddr = s.haltAddr := rfl
@[simp] theorem State.setReg_budget (s : State) (x : Nibble) (b : Byte) :
    (s.setReg x b).budget = s.budget := rfl
@[simp] theorem State.setReg_inputs (s : State) (x : Nibble) (b : Byte) :
    (s.setReg x b).inputs = s.inputs := rfl
@[simp] theorem State.setReg_draws (s : State) (x : Nibble) (b : Byte) :
    (s.setReg x b).draws = s.draws := rfl
@[simp] theorem State.setReg_presents (s : State) (x : Nibble) (b : Byte) :
    (s.setReg x b).presents = s.presents := rfl
@[simp] theorem State.setReg_presented (s : State) (x : Nibble) (b : Byte) :
    (s.setReg x b).presented = s.presented := rfl
@[simp] theorem State.setReg_loadFailed (s : State) (x : Nibble) (b : Byte) :
    (s.setReg x b).loadFailed = s.loadFailed := rfl

/-! ## store -/

@[simp] theorem State.store_v (s : State) (a : Nat) (b : Byte) : (s.store a b).v = s.v := rfl
@[simp] theorem State.store_i (s : State) (a : Nat) (b : Byte) : (s.store a b).i = s.i := rfl
@[simp] theorem State.store_pc (s : State) (a : Nat) (b : Byte) : (s.store a b).pc = s.pc := rfl
@[simp] theorem State.store_sp (s : State) (a : Nat) (b : Byte) : (s.store a b).sp = s.sp := rfl
@[simp] theorem State.store_stack (s : State) (a : Nat) (b : Byte) :
    (s.store a b).stack = s.stack := rfl
@[simp] theorem State.store_dt (s : State) (a : Nat) (b : Byte) : (s.store a b).dt = s.dt := rfl
@[simp] theorem State.store_st (s : State) (a : Nat) (b : Byte) : (s.store a b).st = s.st := rfl
@[simp] theorem State.store_key (s : State) (a : Nat) (b : Byte) : (s.store a b).key = s.key := rfl
@[simp] theorem State.store_fb (s : State) (a : Nat) (b : Byte) : (s.store a b).fb = s.fb := rfl
@[simp] theorem State.store_dirty (s : State) (a : Nat) (b : Byte) :
    (s.store a b).dirty = s.dirty := rfl
@[simp] theorem State.store_tone (s : State) (a : Nat) (b : Byte) :
    (s.store a b).tone = s.tone := rfl
@[simp] theorem State.store_es (s : State) (a : Nat) (b : Byte) : (s.store a b).es = s.es := rfl
@[simp] theorem State.store_haltCause (s : State) (a : Nat) (b : Byte) :
    (s.store a b).haltCause = s.haltCause := rfl
@[simp] theorem State.store_haltPc (s : State) (a : Nat) (b : Byte) :
    (s.store a b).haltPc = s.haltPc := rfl
@[simp] theorem State.store_haltAddr (s : State) (a : Nat) (b : Byte) :
    (s.store a b).haltAddr = s.haltAddr := rfl
@[simp] theorem State.store_budget (s : State) (a : Nat) (b : Byte) :
    (s.store a b).budget = s.budget := rfl
@[simp] theorem State.store_inputs (s : State) (a : Nat) (b : Byte) :
    (s.store a b).inputs = s.inputs := rfl
@[simp] theorem State.store_draws (s : State) (a : Nat) (b : Byte) :
    (s.store a b).draws = s.draws := rfl
@[simp] theorem State.store_presents (s : State) (a : Nat) (b : Byte) :
    (s.store a b).presents = s.presents := rfl
@[simp] theorem State.store_presented (s : State) (a : Nat) (b : Byte) :
    (s.store a b).presented = s.presented := rfl
@[simp] theorem State.store_loadFailed (s : State) (a : Nat) (b : Byte) :
    (s.store a b).loadFailed = s.loadFailed := rfl

/-! ## setI -/

@[simp] theorem State.setI_v (s : State) (w : Word) : (s.setI w).v = s.v := rfl
@[simp] theorem State.setI_pc (s : State) (w : Word) : (s.setI w).pc = s.pc := rfl
@[simp] theorem State.setI_sp (s : State) (w : Word) : (s.setI w).sp = s.sp := rfl
@[simp] theorem State.setI_stack (s : State) (w : Word) : (s.setI w).stack = s.stack := rfl
@[simp] theorem State.setI_mem (s : State) (w : Word) : (s.setI w).mem = s.mem := rfl
@[simp] theorem State.setI_dt (s : State) (w : Word) : (s.setI w).dt = s.dt := rfl
@[simp] theorem State.setI_st (s : State) (w : Word) : (s.setI w).st = s.st := rfl
@[simp] theorem State.setI_key (s : State) (w : Word) : (s.setI w).key = s.key := rfl
@[simp] theorem State.setI_fb (s : State) (w : Word) : (s.setI w).fb = s.fb := rfl
@[simp] theorem State.setI_dirty (s : State) (w : Word) : (s.setI w).dirty = s.dirty := rfl
@[simp] theorem State.setI_tone (s : State) (w : Word) : (s.setI w).tone = s.tone := rfl
@[simp] theorem State.setI_es (s : State) (w : Word) : (s.setI w).es = s.es := rfl
@[simp] theorem State.setI_haltCause (s : State) (w : Word) :
    (s.setI w).haltCause = s.haltCause := rfl
@[simp] theorem State.setI_haltPc (s : State) (w : Word) : (s.setI w).haltPc = s.haltPc := rfl
@[simp] theorem State.setI_haltAddr (s : State) (w : Word) : (s.setI w).haltAddr = s.haltAddr := rfl
@[simp] theorem State.setI_budget (s : State) (w : Word) : (s.setI w).budget = s.budget := rfl
@[simp] theorem State.setI_inputs (s : State) (w : Word) : (s.setI w).inputs = s.inputs := rfl
@[simp] theorem State.setI_draws (s : State) (w : Word) : (s.setI w).draws = s.draws := rfl
@[simp] theorem State.setI_presents (s : State) (w : Word) : (s.setI w).presents = s.presents := rfl
@[simp] theorem State.setI_presented (s : State) (w : Word) :
    (s.setI w).presented = s.presented := rfl
@[simp] theorem State.setI_loadFailed (s : State) (w : Word) :
    (s.setI w).loadFailed = s.loadFailed := rfl

/-! ## setPc -/

@[simp] theorem State.setPc_v (s : State) (w : Word) : (s.setPc w).v = s.v := rfl
@[simp] theorem State.setPc_i (s : State) (w : Word) : (s.setPc w).i = s.i := rfl
@[simp] theorem State.setPc_sp (s : State) (w : Word) : (s.setPc w).sp = s.sp := rfl
@[simp] theorem State.setPc_stack (s : State) (w : Word) : (s.setPc w).stack = s.stack := rfl
@[simp] theorem State.setPc_mem (s : State) (w : Word) : (s.setPc w).mem = s.mem := rfl
@[simp] theorem State.setPc_dt (s : State) (w : Word) : (s.setPc w).dt = s.dt := rfl
@[simp] theorem State.setPc_st (s : State) (w : Word) : (s.setPc w).st = s.st := rfl
@[simp] theorem State.setPc_key (s : State) (w : Word) : (s.setPc w).key = s.key := rfl
@[simp] theorem State.setPc_fb (s : State) (w : Word) : (s.setPc w).fb = s.fb := rfl
@[simp] theorem State.setPc_dirty (s : State) (w : Word) : (s.setPc w).dirty = s.dirty := rfl
@[simp] theorem State.setPc_tone (s : State) (w : Word) : (s.setPc w).tone = s.tone := rfl
@[simp] theorem State.setPc_es (s : State) (w : Word) : (s.setPc w).es = s.es := rfl
@[simp] theorem State.setPc_haltCause (s : State) (w : Word) :
    (s.setPc w).haltCause = s.haltCause := rfl
@[simp] theorem State.setPc_haltPc (s : State) (w : Word) : (s.setPc w).haltPc = s.haltPc := rfl
@[simp] theorem State.setPc_haltAddr (s : State) (w : Word) :
    (s.setPc w).haltAddr = s.haltAddr := rfl
@[simp] theorem State.setPc_budget (s : State) (w : Word) : (s.setPc w).budget = s.budget := rfl
@[simp] theorem State.setPc_inputs (s : State) (w : Word) : (s.setPc w).inputs = s.inputs := rfl
@[simp] theorem State.setPc_draws (s : State) (w : Word) : (s.setPc w).draws = s.draws := rfl
@[simp] theorem State.setPc_presents (s : State) (w : Word) :
    (s.setPc w).presents = s.presents := rfl
@[simp] theorem State.setPc_presented (s : State) (w : Word) :
    (s.setPc w).presented = s.presented := rfl
@[simp] theorem State.setPc_loadFailed (s : State) (w : Word) :
    (s.setPc w).loadFailed = s.loadFailed := rfl

/-! ## advance -/

@[simp] theorem State.advance_v (s : State) : (s.advance).v = s.v := rfl
@[simp] theorem State.advance_i (s : State) : (s.advance).i = s.i := rfl
@[simp] theorem State.advance_sp (s : State) : (s.advance).sp = s.sp := rfl
@[simp] theorem State.advance_stack (s : State) : (s.advance).stack = s.stack := rfl
@[simp] theorem State.advance_mem (s : State) : (s.advance).mem = s.mem := rfl
@[simp] theorem State.advance_dt (s : State) : (s.advance).dt = s.dt := rfl
@[simp] theorem State.advance_st (s : State) : (s.advance).st = s.st := rfl
@[simp] theorem State.advance_key (s : State) : (s.advance).key = s.key := rfl
@[simp] theorem State.advance_fb (s : State) : (s.advance).fb = s.fb := rfl
@[simp] theorem State.advance_dirty (s : State) : (s.advance).dirty = s.dirty := rfl
@[simp] theorem State.advance_tone (s : State) : (s.advance).tone = s.tone := rfl
@[simp] theorem State.advance_es (s : State) : (s.advance).es = s.es := rfl
@[simp] theorem State.advance_haltCause (s : State) : (s.advance).haltCause = s.haltCause := rfl
@[simp] theorem State.advance_haltPc (s : State) : (s.advance).haltPc = s.haltPc := rfl
@[simp] theorem State.advance_haltAddr (s : State) : (s.advance).haltAddr = s.haltAddr := rfl
@[simp] theorem State.advance_budget (s : State) : (s.advance).budget = s.budget := rfl
@[simp] theorem State.advance_inputs (s : State) : (s.advance).inputs = s.inputs := rfl
@[simp] theorem State.advance_draws (s : State) : (s.advance).draws = s.draws := rfl
@[simp] theorem State.advance_presents (s : State) : (s.advance).presents = s.presents := rfl
@[simp] theorem State.advance_presented (s : State) : (s.advance).presented = s.presented := rfl
@[simp] theorem State.advance_loadFailed (s : State) : (s.advance).loadFailed = s.loadFailed := rfl

/-! ## setFlag -/

@[simp] theorem State.setFlag_i (s : State) (f : Bool) : (s.setFlag f).i = s.i := rfl
@[simp] theorem State.setFlag_pc (s : State) (f : Bool) : (s.setFlag f).pc = s.pc := rfl
@[simp] theorem State.setFlag_sp (s : State) (f : Bool) : (s.setFlag f).sp = s.sp := rfl
@[simp] theorem State.setFlag_stack (s : State) (f : Bool) : (s.setFlag f).stack = s.stack := rfl
@[simp] theorem State.setFlag_mem (s : State) (f : Bool) : (s.setFlag f).mem = s.mem := rfl
@[simp] theorem State.setFlag_dt (s : State) (f : Bool) : (s.setFlag f).dt = s.dt := rfl
@[simp] theorem State.setFlag_st (s : State) (f : Bool) : (s.setFlag f).st = s.st := rfl
@[simp] theorem State.setFlag_key (s : State) (f : Bool) : (s.setFlag f).key = s.key := rfl
@[simp] theorem State.setFlag_fb (s : State) (f : Bool) : (s.setFlag f).fb = s.fb := rfl
@[simp] theorem State.setFlag_dirty (s : State) (f : Bool) : (s.setFlag f).dirty = s.dirty := rfl
@[simp] theorem State.setFlag_tone (s : State) (f : Bool) : (s.setFlag f).tone = s.tone := rfl
@[simp] theorem State.setFlag_es (s : State) (f : Bool) : (s.setFlag f).es = s.es := rfl
@[simp] theorem State.setFlag_haltCause (s : State) (f : Bool) :
    (s.setFlag f).haltCause = s.haltCause := rfl
@[simp] theorem State.setFlag_haltPc (s : State) (f : Bool) : (s.setFlag f).haltPc = s.haltPc := rfl
@[simp] theorem State.setFlag_haltAddr (s : State) (f : Bool) :
    (s.setFlag f).haltAddr = s.haltAddr := rfl
@[simp] theorem State.setFlag_budget (s : State) (f : Bool) : (s.setFlag f).budget = s.budget := rfl
@[simp] theorem State.setFlag_inputs (s : State) (f : Bool) : (s.setFlag f).inputs = s.inputs := rfl
@[simp] theorem State.setFlag_draws (s : State) (f : Bool) : (s.setFlag f).draws = s.draws := rfl
@[simp] theorem State.setFlag_presents (s : State) (f : Bool) :
    (s.setFlag f).presents = s.presents := rfl
@[simp] theorem State.setFlag_presented (s : State) (f : Bool) :
    (s.setFlag f).presented = s.presented := rfl
@[simp] theorem State.setFlag_loadFailed (s : State) (f : Bool) :
    (s.setFlag f).loadFailed = s.loadFailed := rfl

/-! ## setRegFlag -/

@[simp] theorem State.setRegFlag_i (s : State) (x : Nibble) (b : Byte) (f : Bool) :
    (s.setRegFlag x b f).i = s.i := rfl
@[simp] theorem State.setRegFlag_pc (s : State) (x : Nibble) (b : Byte) (f : Bool) :
    (s.setRegFlag x b f).pc = s.pc := rfl
@[simp] theorem State.setRegFlag_sp (s : State) (x : Nibble) (b : Byte) (f : Bool) :
    (s.setRegFlag x b f).sp = s.sp := rfl
@[simp] theorem State.setRegFlag_stack (s : State) (x : Nibble) (b : Byte) (f : Bool) :
    (s.setRegFlag x b f).stack = s.stack := rfl
@[simp] theorem State.setRegFlag_mem (s : State) (x : Nibble) (b : Byte) (f : Bool) :
    (s.setRegFlag x b f).mem = s.mem := rfl
@[simp] theorem State.setRegFlag_dt (s : State) (x : Nibble) (b : Byte) (f : Bool) :
    (s.setRegFlag x b f).dt = s.dt := rfl
@[simp] theorem State.setRegFlag_st (s : State) (x : Nibble) (b : Byte) (f : Bool) :
    (s.setRegFlag x b f).st = s.st := rfl
@[simp] theorem State.setRegFlag_key (s : State) (x : Nibble) (b : Byte) (f : Bool) :
    (s.setRegFlag x b f).key = s.key := rfl
@[simp] theorem State.setRegFlag_fb (s : State) (x : Nibble) (b : Byte) (f : Bool) :
    (s.setRegFlag x b f).fb = s.fb := rfl
@[simp] theorem State.setRegFlag_dirty (s : State) (x : Nibble) (b : Byte) (f : Bool) :
    (s.setRegFlag x b f).dirty = s.dirty := rfl
@[simp] theorem State.setRegFlag_tone (s : State) (x : Nibble) (b : Byte) (f : Bool) :
    (s.setRegFlag x b f).tone = s.tone := rfl
@[simp] theorem State.setRegFlag_es (s : State) (x : Nibble) (b : Byte) (f : Bool) :
    (s.setRegFlag x b f).es = s.es := rfl
@[simp] theorem State.setRegFlag_haltCause (s : State) (x : Nibble) (b : Byte) (f : Bool) :
    (s.setRegFlag x b f).haltCause = s.haltCause := rfl
@[simp] theorem State.setRegFlag_haltPc (s : State) (x : Nibble) (b : Byte) (f : Bool) :
    (s.setRegFlag x b f).haltPc = s.haltPc := rfl
@[simp] theorem State.setRegFlag_haltAddr (s : State) (x : Nibble) (b : Byte) (f : Bool) :
    (s.setRegFlag x b f).haltAddr = s.haltAddr := rfl
@[simp] theorem State.setRegFlag_budget (s : State) (x : Nibble) (b : Byte) (f : Bool) :
    (s.setRegFlag x b f).budget = s.budget := rfl
@[simp] theorem State.setRegFlag_inputs (s : State) (x : Nibble) (b : Byte) (f : Bool) :
    (s.setRegFlag x b f).inputs = s.inputs := rfl
@[simp] theorem State.setRegFlag_draws (s : State) (x : Nibble) (b : Byte) (f : Bool) :
    (s.setRegFlag x b f).draws = s.draws := rfl
@[simp] theorem State.setRegFlag_presents (s : State) (x : Nibble) (b : Byte) (f : Bool) :
    (s.setRegFlag x b f).presents = s.presents := rfl
@[simp] theorem State.setRegFlag_presented (s : State) (x : Nibble) (b : Byte) (f : Bool) :
    (s.setRegFlag x b f).presented = s.presented := rfl
@[simp] theorem State.setRegFlag_loadFailed (s : State) (x : Nibble) (b : Byte) (f : Bool) :
    (s.setRegFlag x b f).loadFailed = s.loadFailed := rfl

/-! ## spend -/

@[simp] theorem State.spend_v (s : State) : (s.spend).v = s.v := rfl
@[simp] theorem State.spend_i (s : State) : (s.spend).i = s.i := rfl
@[simp] theorem State.spend_pc (s : State) : (s.spend).pc = s.pc := rfl
@[simp] theorem State.spend_sp (s : State) : (s.spend).sp = s.sp := rfl
@[simp] theorem State.spend_stack (s : State) : (s.spend).stack = s.stack := rfl
@[simp] theorem State.spend_mem (s : State) : (s.spend).mem = s.mem := rfl
@[simp] theorem State.spend_dt (s : State) : (s.spend).dt = s.dt := rfl
@[simp] theorem State.spend_st (s : State) : (s.spend).st = s.st := rfl
@[simp] theorem State.spend_key (s : State) : (s.spend).key = s.key := rfl
@[simp] theorem State.spend_fb (s : State) : (s.spend).fb = s.fb := rfl
@[simp] theorem State.spend_dirty (s : State) : (s.spend).dirty = s.dirty := rfl
@[simp] theorem State.spend_tone (s : State) : (s.spend).tone = s.tone := rfl
@[simp] theorem State.spend_es (s : State) : (s.spend).es = s.es := rfl
@[simp] theorem State.spend_haltCause (s : State) : (s.spend).haltCause = s.haltCause := rfl
@[simp] theorem State.spend_haltPc (s : State) : (s.spend).haltPc = s.haltPc := rfl
@[simp] theorem State.spend_haltAddr (s : State) : (s.spend).haltAddr = s.haltAddr := rfl
@[simp] theorem State.spend_inputs (s : State) : (s.spend).inputs = s.inputs := rfl
@[simp] theorem State.spend_draws (s : State) : (s.spend).draws = s.draws := rfl
@[simp] theorem State.spend_presents (s : State) : (s.spend).presents = s.presents := rfl
@[simp] theorem State.spend_presented (s : State) : (s.spend).presented = s.presented := rfl
@[simp] theorem State.spend_loadFailed (s : State) : (s.spend).loadFailed = s.loadFailed := rfl

/-! ## takeInput -/

@[simp] theorem State.takeInput_v (s : State) : (s.takeInput).v = s.v := rfl
@[simp] theorem State.takeInput_i (s : State) : (s.takeInput).i = s.i := rfl
@[simp] theorem State.takeInput_pc (s : State) : (s.takeInput).pc = s.pc := rfl
@[simp] theorem State.takeInput_sp (s : State) : (s.takeInput).sp = s.sp := rfl
@[simp] theorem State.takeInput_stack (s : State) : (s.takeInput).stack = s.stack := rfl
@[simp] theorem State.takeInput_mem (s : State) : (s.takeInput).mem = s.mem := rfl
@[simp] theorem State.takeInput_dt (s : State) : (s.takeInput).dt = s.dt := rfl
@[simp] theorem State.takeInput_st (s : State) : (s.takeInput).st = s.st := rfl
@[simp] theorem State.takeInput_key (s : State) : (s.takeInput).key = s.key := rfl
@[simp] theorem State.takeInput_fb (s : State) : (s.takeInput).fb = s.fb := rfl
@[simp] theorem State.takeInput_dirty (s : State) : (s.takeInput).dirty = s.dirty := rfl
@[simp] theorem State.takeInput_tone (s : State) : (s.takeInput).tone = s.tone := rfl
@[simp] theorem State.takeInput_es (s : State) : (s.takeInput).es = s.es := rfl
@[simp] theorem State.takeInput_haltCause (s : State) : (s.takeInput).haltCause = s.haltCause := rfl
@[simp] theorem State.takeInput_haltPc (s : State) : (s.takeInput).haltPc = s.haltPc := rfl
@[simp] theorem State.takeInput_haltAddr (s : State) : (s.takeInput).haltAddr = s.haltAddr := rfl
@[simp] theorem State.takeInput_budget (s : State) : (s.takeInput).budget = s.budget := rfl
@[simp] theorem State.takeInput_draws (s : State) : (s.takeInput).draws = s.draws := rfl
@[simp] theorem State.takeInput_presents (s : State) : (s.takeInput).presents = s.presents := rfl
@[simp] theorem State.takeInput_presented (s : State) : (s.takeInput).presented = s.presented := rfl
@[simp] theorem State.takeInput_loadFailed (s : State) :
    (s.takeInput).loadFailed = s.loadFailed := rfl

/-! ## terminate -/

@[simp] theorem State.terminate_v (s : State) : (s.terminate).v = s.v := rfl
@[simp] theorem State.terminate_i (s : State) : (s.terminate).i = s.i := rfl
@[simp] theorem State.terminate_pc (s : State) : (s.terminate).pc = s.pc := rfl
@[simp] theorem State.terminate_sp (s : State) : (s.terminate).sp = s.sp := rfl
@[simp] theorem State.terminate_stack (s : State) : (s.terminate).stack = s.stack := rfl
@[simp] theorem State.terminate_mem (s : State) : (s.terminate).mem = s.mem := rfl
@[simp] theorem State.terminate_dt (s : State) : (s.terminate).dt = s.dt := rfl
@[simp] theorem State.terminate_st (s : State) : (s.terminate).st = s.st := rfl
@[simp] theorem State.terminate_key (s : State) : (s.terminate).key = s.key := rfl
@[simp] theorem State.terminate_fb (s : State) : (s.terminate).fb = s.fb := rfl
@[simp] theorem State.terminate_dirty (s : State) : (s.terminate).dirty = s.dirty := rfl
@[simp] theorem State.terminate_haltCause (s : State) : (s.terminate).haltCause = s.haltCause := rfl
@[simp] theorem State.terminate_haltPc (s : State) : (s.terminate).haltPc = s.haltPc := rfl
@[simp] theorem State.terminate_haltAddr (s : State) : (s.terminate).haltAddr = s.haltAddr := rfl
@[simp] theorem State.terminate_budget (s : State) : (s.terminate).budget = s.budget := rfl
@[simp] theorem State.terminate_inputs (s : State) : (s.terminate).inputs = s.inputs := rfl
@[simp] theorem State.terminate_draws (s : State) : (s.terminate).draws = s.draws := rfl
@[simp] theorem State.terminate_presents (s : State) : (s.terminate).presents = s.presents := rfl
@[simp] theorem State.terminate_presented (s : State) : (s.terminate).presented = s.presented := rfl
@[simp] theorem State.terminate_loadFailed (s : State) :
    (s.terminate).loadFailed = s.loadFailed := rfl

/-! ## present -/

@[simp] theorem State.present_v (s : State) : (s.present).v = s.v := rfl
@[simp] theorem State.present_i (s : State) : (s.present).i = s.i := rfl
@[simp] theorem State.present_pc (s : State) : (s.present).pc = s.pc := rfl
@[simp] theorem State.present_sp (s : State) : (s.present).sp = s.sp := rfl
@[simp] theorem State.present_stack (s : State) : (s.present).stack = s.stack := rfl
@[simp] theorem State.present_mem (s : State) : (s.present).mem = s.mem := rfl
@[simp] theorem State.present_dt (s : State) : (s.present).dt = s.dt := rfl
@[simp] theorem State.present_st (s : State) : (s.present).st = s.st := rfl
@[simp] theorem State.present_key (s : State) : (s.present).key = s.key := rfl
@[simp] theorem State.present_fb (s : State) : (s.present).fb = s.fb := rfl
@[simp] theorem State.present_tone (s : State) : (s.present).tone = s.tone := rfl
@[simp] theorem State.present_es (s : State) : (s.present).es = s.es := rfl
@[simp] theorem State.present_haltCause (s : State) : (s.present).haltCause = s.haltCause := rfl
@[simp] theorem State.present_haltPc (s : State) : (s.present).haltPc = s.haltPc := rfl
@[simp] theorem State.present_haltAddr (s : State) : (s.present).haltAddr = s.haltAddr := rfl
@[simp] theorem State.present_budget (s : State) : (s.present).budget = s.budget := rfl
@[simp] theorem State.present_inputs (s : State) : (s.present).inputs = s.inputs := rfl
@[simp] theorem State.present_draws (s : State) : (s.present).draws = s.draws := rfl
@[simp] theorem State.present_loadFailed (s : State) : (s.present).loadFailed = s.loadFailed := rfl

/-! ## beginFrame -/

@[simp] theorem State.beginFrame_v (s : State) : (s.beginFrame).v = s.v := rfl
@[simp] theorem State.beginFrame_i (s : State) : (s.beginFrame).i = s.i := rfl
@[simp] theorem State.beginFrame_pc (s : State) : (s.beginFrame).pc = s.pc := rfl
@[simp] theorem State.beginFrame_sp (s : State) : (s.beginFrame).sp = s.sp := rfl
@[simp] theorem State.beginFrame_stack (s : State) : (s.beginFrame).stack = s.stack := rfl
@[simp] theorem State.beginFrame_mem (s : State) : (s.beginFrame).mem = s.mem := rfl
@[simp] theorem State.beginFrame_key (s : State) : (s.beginFrame).key = s.key := rfl
@[simp] theorem State.beginFrame_fb (s : State) : (s.beginFrame).fb = s.fb := rfl
@[simp] theorem State.beginFrame_dirty (s : State) : (s.beginFrame).dirty = s.dirty := rfl
@[simp] theorem State.beginFrame_es (s : State) : (s.beginFrame).es = s.es := rfl
@[simp] theorem State.beginFrame_haltCause (s : State) :
    (s.beginFrame).haltCause = s.haltCause := rfl
@[simp] theorem State.beginFrame_haltPc (s : State) : (s.beginFrame).haltPc = s.haltPc := rfl
@[simp] theorem State.beginFrame_haltAddr (s : State) : (s.beginFrame).haltAddr = s.haltAddr := rfl
@[simp] theorem State.beginFrame_inputs (s : State) : (s.beginFrame).inputs = s.inputs := rfl
@[simp] theorem State.beginFrame_draws (s : State) : (s.beginFrame).draws = s.draws := rfl
@[simp] theorem State.beginFrame_presents (s : State) : (s.beginFrame).presents = s.presents := rfl
@[simp] theorem State.beginFrame_presented (s : State) :
    (s.beginFrame).presented = s.presented := rfl
@[simp] theorem State.beginFrame_loadFailed (s : State) :
    (s.beginFrame).loadFailed = s.loadFailed := rfl

/-! ## haltAt -/

@[simp] theorem State.haltAt_v (s : State) (p : Word) (c : HaltCause) (a : Nat) :
    (s.haltAt p c a).v = s.v := rfl
@[simp] theorem State.haltAt_i (s : State) (p : Word) (c : HaltCause) (a : Nat) :
    (s.haltAt p c a).i = s.i := rfl
@[simp] theorem State.haltAt_sp (s : State) (p : Word) (c : HaltCause) (a : Nat) :
    (s.haltAt p c a).sp = s.sp := rfl
@[simp] theorem State.haltAt_stack (s : State) (p : Word) (c : HaltCause) (a : Nat) :
    (s.haltAt p c a).stack = s.stack := rfl
@[simp] theorem State.haltAt_mem (s : State) (p : Word) (c : HaltCause) (a : Nat) :
    (s.haltAt p c a).mem = s.mem := rfl
@[simp] theorem State.haltAt_dt (s : State) (p : Word) (c : HaltCause) (a : Nat) :
    (s.haltAt p c a).dt = s.dt := rfl
@[simp] theorem State.haltAt_st (s : State) (p : Word) (c : HaltCause) (a : Nat) :
    (s.haltAt p c a).st = s.st := rfl
@[simp] theorem State.haltAt_key (s : State) (p : Word) (c : HaltCause) (a : Nat) :
    (s.haltAt p c a).key = s.key := rfl
@[simp] theorem State.haltAt_fb (s : State) (p : Word) (c : HaltCause) (a : Nat) :
    (s.haltAt p c a).fb = s.fb := rfl
@[simp] theorem State.haltAt_dirty (s : State) (p : Word) (c : HaltCause) (a : Nat) :
    (s.haltAt p c a).dirty = s.dirty := rfl
@[simp] theorem State.haltAt_inputs (s : State) (p : Word) (c : HaltCause) (a : Nat) :
    (s.haltAt p c a).inputs = s.inputs := rfl
@[simp] theorem State.haltAt_draws (s : State) (p : Word) (c : HaltCause) (a : Nat) :
    (s.haltAt p c a).draws = s.draws := rfl
@[simp] theorem State.haltAt_presents (s : State) (p : Word) (c : HaltCause) (a : Nat) :
    (s.haltAt p c a).presents = s.presents := rfl
@[simp] theorem State.haltAt_presented (s : State) (p : Word) (c : HaltCause) (a : Nat) :
    (s.haltAt p c a).presented = s.presented := rfl
@[simp] theorem State.haltAt_loadFailed (s : State) (p : Word) (c : HaltCause) (a : Nat) :
    (s.haltAt p c a).loadFailed = s.loadFailed := rfl

/-! ## raise -/

@[simp] theorem State.raise_v (s : State) (c : HaltCause) (a : Nat) : (s.raise c a).v = s.v := rfl
@[simp] theorem State.raise_i (s : State) (c : HaltCause) (a : Nat) : (s.raise c a).i = s.i := rfl
@[simp] theorem State.raise_sp (s : State) (c : HaltCause) (a : Nat) :
    (s.raise c a).sp = s.sp := rfl
@[simp] theorem State.raise_stack (s : State) (c : HaltCause) (a : Nat) :
    (s.raise c a).stack = s.stack := rfl
@[simp] theorem State.raise_mem (s : State) (c : HaltCause) (a : Nat) :
    (s.raise c a).mem = s.mem := rfl
@[simp] theorem State.raise_dt (s : State) (c : HaltCause) (a : Nat) :
    (s.raise c a).dt = s.dt := rfl
@[simp] theorem State.raise_st (s : State) (c : HaltCause) (a : Nat) :
    (s.raise c a).st = s.st := rfl
@[simp] theorem State.raise_key (s : State) (c : HaltCause) (a : Nat) :
    (s.raise c a).key = s.key := rfl
@[simp] theorem State.raise_fb (s : State) (c : HaltCause) (a : Nat) :
    (s.raise c a).fb = s.fb := rfl
@[simp] theorem State.raise_dirty (s : State) (c : HaltCause) (a : Nat) :
    (s.raise c a).dirty = s.dirty := rfl
@[simp] theorem State.raise_inputs (s : State) (c : HaltCause) (a : Nat) :
    (s.raise c a).inputs = s.inputs := rfl
@[simp] theorem State.raise_draws (s : State) (c : HaltCause) (a : Nat) :
    (s.raise c a).draws = s.draws := rfl
@[simp] theorem State.raise_presents (s : State) (c : HaltCause) (a : Nat) :
    (s.raise c a).presents = s.presents := rfl
@[simp] theorem State.raise_presented (s : State) (c : HaltCause) (a : Nat) :
    (s.raise c a).presented = s.presented := rfl
@[simp] theorem State.raise_loadFailed (s : State) (c : HaltCause) (a : Nat) :
    (s.raise c a).loadFailed = s.loadFailed := rfl

/-! ## The fields an update writes -/

@[simp] theorem State.setI_i (s : State) (w : Word) : (s.setI w).i = w := rfl
@[simp] theorem State.setPc_pc (s : State) (w : Word) : (s.setPc w).pc = w := rfl
@[simp] theorem State.advance_pc (s : State) : s.advance.pc = s.pc + 2#16 := rfl
@[simp] theorem State.store_mem (s : State) (a : Nat) (b : Byte) :
    (s.store a b).mem = s.mem.write a b := rfl
@[simp] theorem State.spend_budget (s : State) : s.spend.budget = s.budget - 1 := rfl
@[simp] theorem State.takeInput_inputs (s : State) : s.takeInput.inputs = s.inputs.tail := rfl
@[simp] theorem State.terminate_es (s : State) : s.terminate.es = .terminated := rfl
@[simp] theorem State.terminate_tone (s : State) : s.terminate.tone = false := rfl
@[simp] theorem State.present_presents (s : State) : s.present.presents = s.presents + 1 := rfl
@[simp] theorem State.present_presented (s : State) : s.present.presented = s.fb := rfl
@[simp] theorem State.present_dirty (s : State) : s.present.dirty = false := rfl
@[simp] theorem State.beginFrame_dt (s : State) : s.beginFrame.dt = tick s.dt := rfl
@[simp] theorem State.beginFrame_st (s : State) : s.beginFrame.st = tick s.st := rfl
@[simp] theorem State.beginFrame_tone (s : State) : s.beginFrame.tone = (tick s.st != 0#8) := rfl
@[simp] theorem State.beginFrame_budget (s : State) : s.beginFrame.budget = Config.ipf := rfl

/-! ## haltAt and raise, the fields of R180 -/

@[simp] theorem State.haltAt_pc (s : State) (p : Word) (c : HaltCause) (a : Nat) :
    (s.haltAt p c a).pc = p := rfl
@[simp] theorem State.haltAt_haltPc (s : State) (p : Word) (c : HaltCause) (a : Nat) :
    (s.haltAt p c a).haltPc = p := rfl
@[simp] theorem State.haltAt_haltCause (s : State) (p : Word) (c : HaltCause) (a : Nat) :
    (s.haltAt p c a).haltCause = c := rfl
@[simp] theorem State.haltAt_haltAddr (s : State) (p : Word) (c : HaltCause) (a : Nat) :
    (s.haltAt p c a).haltAddr = BitVec.ofNat 17 a := rfl
@[simp] theorem State.haltAt_es (s : State) (p : Word) (c : HaltCause) (a : Nat) :
    (s.haltAt p c a).es = .halted := rfl
@[simp] theorem State.haltAt_tone (s : State) (p : Word) (c : HaltCause) (a : Nat) :
    (s.haltAt p c a).tone = false := rfl
@[simp] theorem State.haltAt_budget (s : State) (p : Word) (c : HaltCause) (a : Nat) :
    (s.haltAt p c a).budget = 0 := rfl
@[simp] theorem State.raise_pc (s : State) (c : HaltCause) (a : Nat) :
    (s.raise c a).pc = s.pc - 2#16 := rfl
@[simp] theorem State.raise_haltPc (s : State) (c : HaltCause) (a : Nat) :
    (s.raise c a).haltPc = s.pc - 2#16 := rfl
@[simp] theorem State.raise_haltCause (s : State) (c : HaltCause) (a : Nat) :
    (s.raise c a).haltCause = c := rfl
@[simp] theorem State.raise_haltAddr (s : State) (c : HaltCause) (a : Nat) :
    (s.raise c a).haltAddr = BitVec.ofNat 17 a := rfl
@[simp] theorem State.raise_es (s : State) (c : HaltCause) (a : Nat) :
    (s.raise c a).es = .halted := rfl
@[simp] theorem State.raise_tone (s : State) (c : HaltCause) (a : Nat) :
    (s.raise c a).tone = false := rfl
@[simp] theorem State.raise_budget (s : State) (c : HaltCause) (a : Nat) :
    (s.raise c a).budget = 0 := rfl

/-! ## The register file -/

@[simp] theorem State.reg_setReg_same (s : State) (x : Nibble) (b : Byte) :
    (s.setReg x b).reg x = b := by simp [State.reg, State.setReg]

theorem State.reg_setReg_ne (s : State) {x r : Nibble} (b : Byte) (h : r ≠ x) :
    (s.setReg x b).reg r = s.reg r := by
  have : x.toNat ≠ r.toNat := fun e => h (BitVec.eq_of_toNat_eq e.symm)
  simp [State.reg, State.setReg, this]

theorem State.reg_setReg (s : State) (x r : Nibble) (b : Byte) :
    (s.setReg x b).reg r = if r = x then b else s.reg r := by
  split
  · next h => subst h; simp
  · next h => exact s.reg_setReg_ne b h

/-- A register read depends on the register file alone. -/
theorem State.reg_congr {s t : State} (h : t.v = s.v) (r : Nibble) : t.reg r = s.reg r := by
  simp [State.reg, h]

@[simp] theorem State.reg_store (s : State) (a : Nat) (b : Byte) (r : Nibble) :
    (s.store a b).reg r = s.reg r := rfl
@[simp] theorem State.reg_setI (s : State) (w : Word) (r : Nibble) :
    (s.setI w).reg r = s.reg r := rfl
@[simp] theorem State.reg_setPc (s : State) (w : Word) (r : Nibble) :
    (s.setPc w).reg r = s.reg r := rfl
@[simp] theorem State.reg_advance (s : State) (r : Nibble) : s.advance.reg r = s.reg r := rfl
@[simp] theorem State.reg_spend (s : State) (r : Nibble) : s.spend.reg r = s.reg r := rfl

@[simp] theorem State.reg_setFlag_vf (s : State) (f : Bool) :
    (s.setFlag f).reg 0xF#4 = flagByte f := by simp [State.setFlag]

theorem State.reg_setFlag_ne (s : State) {r : Nibble} (f : Bool) (h : r ≠ 0xF#4) :
    (s.setFlag f).reg r = s.reg r := s.reg_setReg_ne _ h

/-- The flag is the final value of VF, for every x (10_state.md R23). -/
@[simp] theorem State.reg_setRegFlag_vf (s : State) (x : Nibble) (b : Byte) (f : Bool) :
    (s.setRegFlag x b f).reg 0xF#4 = flagByte f := by simp [State.setRegFlag]

theorem State.reg_setRegFlag_same (s : State) {x : Nibble} (b : Byte) (f : Bool) (h : x ≠ 0xF#4) :
    (s.setRegFlag x b f).reg x = b := by
  simp [State.setRegFlag, State.reg_setFlag_ne _ _ h]

theorem State.reg_setRegFlag_ne (s : State) {x r : Nibble} (b : Byte) (f : Bool)
    (hx : r ≠ x) (hf : r ≠ 0xF#4) : (s.setRegFlag x b f).reg r = s.reg r := by
  simp [State.setRegFlag, State.reg_setFlag_ne _ _ hf, State.reg_setReg_ne _ _ hx]

end Sys2Proof.Machine
end

