-- ==== Sys2Proof/Laws/Memory.lean ====
section
/-!
SUPPORT. Memory: read after write, the canonical form, loading, and the access check. One lemma says
everything each operation can do.
-/

namespace Sys2Proof.Machine

/-! ## The canonical form -/

theorem Memory.wfFrom_cons {lo a : Nat} {v : Byte} {m : Memory} :
    Memory.wfFrom lo ((a, v) :: m) = true ↔
      lo ≤ a ∧ a < Config.memSize ∧ v ≠ Memory.unlisted a ∧ Memory.wfFrom (a + 1) m = true := by
  simp [Memory.wfFrom, and_assoc]

theorem Memory.wfFrom_mono {lo lo' : Nat} {m : Memory} (h : lo' ≤ lo)
    (hm : Memory.wfFrom lo m = true) : Memory.wfFrom lo' m = true := by
  cases m with
  | nil => rfl
  | cons c m =>
    obtain ⟨a, v⟩ := c
    rw [Memory.wfFrom_cons] at hm ⊢
    exact ⟨h.trans hm.1, hm.2⟩

/-- Below the first listed address every address reads as unlisted. -/
theorem Memory.read_below {lo a : Nat} {m : Memory} (hm : Memory.wfFrom lo m = true) (h : a < lo) :
    m.read a = Memory.unlisted a := by
  induction m generalizing lo with
  | nil => rfl
  | cons c m ih =>
    obtain ⟨b, v⟩ := c
    rw [Memory.wfFrom_cons] at hm
    have hne : a ≠ b := by omega
    simp only [Memory.read, if_neg hne]
    exact ih hm.2.2.2 (by omega)

/-! ## Read after write -/

/-- A write leaves every other address alone. -/
theorem Memory.read_write_ne (m : Memory) {a b : Nat} (v : Byte) (h : b ≠ a) :
    (m.write a v).read b = m.read b := by
  induction m with
  | nil => simp only [Memory.write]; split <;> simp [Memory.read, h]
  | cons c m ih =>
    obtain ⟨d, w⟩ := c
    simp only [Memory.write]
    split
    · split <;> simp [Memory.read, h]
    · split
      · next hd => subst hd; split <;> simp [Memory.read, h]
      · simp [Memory.read, ih]

theorem Memory.read_write_same_from {lo : Nat} {m : Memory} (hm : Memory.wfFrom lo m = true)
    (a : Nat) (v : Byte) : (m.write a v).read a = v := by
  induction m generalizing lo with
  | nil => simp only [Memory.write]; split <;> simp_all [Memory.read]
  | cons c m ih =>
    obtain ⟨d, w⟩ := c
    have hc := Memory.wfFrom_cons.mp hm
    simp only [Memory.write]
    split
    · next hlt =>
      split
      · next hv =>
        have := Memory.read_below (Memory.wfFrom_mono (Nat.le_refl d)
          (Memory.wfFrom_cons.mpr ⟨Nat.le_refl d, hc.2⟩)) hlt
        rw [this, hv]
      · simp [Memory.read]
    · split
      · next hd =>
        subst hd
        split
        · next hv => rw [Memory.read_below hc.2.2.2 (Nat.lt_succ_self a), hv]
        · simp [Memory.read]
      · next hd => simp [Memory.read, hd, ih hc.2.2.2]

/-- In canonical memory a write is read back. -/
theorem Memory.read_write_same {m : Memory} (hm : m.wf = true) (a : Nat) (v : Byte) :
    (m.write a v).read a = v := Memory.read_write_same_from hm a v

/-! ## Every operation keeps the canonical form -/

theorem Memory.wfFrom_write {lo a : Nat} {m : Memory} {v : Byte} (hm : Memory.wfFrom lo m = true)
    (hlo : lo ≤ a) (ha : a < Config.memSize) : Memory.wfFrom lo (m.write a v) = true := by
  induction m generalizing lo with
  | nil =>
    simp only [Memory.write]
    split
    · rfl
    · next hv => exact Memory.wfFrom_cons.mpr ⟨hlo, ha, hv, rfl⟩
  | cons c m ih =>
    obtain ⟨d, w⟩ := c
    have hc := Memory.wfFrom_cons.mp hm
    simp only [Memory.write]
    split
    · next hlt =>
      split
      · exact hm
      · next hv =>
        exact Memory.wfFrom_cons.mpr
          ⟨hlo, ha, hv, Memory.wfFrom_cons.mpr ⟨by omega, hc.2⟩⟩
    · split
      · next hd =>
        subst hd
        split
        · exact Memory.wfFrom_mono (by omega) hc.2.2.2
        · next hv => exact Memory.wfFrom_cons.mpr ⟨hlo, ha, hv, hc.2.2.2⟩
      · exact Memory.wfFrom_cons.mpr ⟨hc.1, hc.2.1, hc.2.2.1, ih hc.2.2.2 (by omega)⟩

theorem Memory.wf_write {m : Memory} {a : Nat} (v : Byte) (hm : m.wf = true)
    (ha : a < Config.memSize) : (m.write a v).wf = true :=
  Memory.wfFrom_write hm (Nat.zero_le a) ha

theorem Memory.wf_place {m : Memory} {a : Nat} {bs : List Byte} (hm : m.wf = true)
    (ha : a + bs.length ≤ Config.memSize) : (m.place a bs).wf = true := by
  induction bs generalizing a with
  | nil => exact hm
  | cons b bs ih =>
    simp only [List.length_cons] at ha
    exact Memory.wf_write b (ih (by omega)) (by omega)

theorem Memory.wfFrom_clearFrom {lo a : Nat} {m : Memory} (hm : Memory.wfFrom lo m = true) :
    Memory.wfFrom lo (m.clearFrom a) = true := by
  induction m generalizing lo with
  | nil => rfl
  | cons c m ih =>
    obtain ⟨d, w⟩ := c
    have hc := Memory.wfFrom_cons.mp hm
    by_cases hd : d < a
    · have : Memory.clearFrom ((d, w) :: m) a = (d, w) :: Memory.clearFrom m a := by
        simp [Memory.clearFrom, hd]
      rw [this]
      exact Memory.wfFrom_cons.mpr ⟨hc.1, hc.2.1, hc.2.2.1, ih hc.2.2.2⟩
    · have : Memory.clearFrom ((d, w) :: m) a = Memory.clearFrom m a := by
        simp [Memory.clearFrom, hd]
      rw [this]
      exact Memory.wfFrom_mono (show lo ≤ d + 1 by omega) (ih hc.2.2.2)

theorem Memory.wf_clearFrom {m : Memory} (a : Nat) (hm : m.wf = true) :
    (m.clearFrom a).wf = true := Memory.wfFrom_clearFrom hm

/-! ## Clearing and loading -/

theorem Memory.read_clearFrom (m : Memory) (a b : Nat) :
    (m.clearFrom a).read b = if b < a then m.read b else Memory.unlisted b := by
  induction m with
  | nil => simp [Memory.clearFrom, Memory.read]
  | cons c m ih =>
    obtain ⟨d, w⟩ := c
    by_cases hd : d < a
    · have : Memory.clearFrom ((d, w) :: m) a = (d, w) :: Memory.clearFrom m a := by
        simp [Memory.clearFrom, hd]
      rw [this]
      simp only [Memory.read, ih]
      by_cases hb : b = d
      · subst hb; simp [hd]
      · simp [hb]
    · have : Memory.clearFrom ((d, w) :: m) a = Memory.clearFrom m a := by
        simp [Memory.clearFrom, hd]
      rw [this, ih]
      by_cases hb : b = d
      · subst hb; simp [hd]
      · simp [Memory.read, hb]

/-- Outside the placed bytes memory reads as before. -/
theorem Memory.read_place_outside (m : Memory) {a b : Nat} (bs : List Byte)
    (h : b < a ∨ a + bs.length ≤ b) : (m.place a bs).read b = m.read b := by
  induction bs generalizing a with
  | nil => rfl
  | cons v bs ih =>
    simp only [List.length_cons] at h
    rw [Memory.place, Memory.read_write_ne _ _ (by omega)]
    exact ih (by omega)

/-- Byte `k` of the placed bytes is read at the `k`-th address. -/
theorem Memory.read_place_inside {m : Memory} {a k : Nat} {bs : List Byte} (hm : m.wf = true)
    (ha : a + bs.length ≤ Config.memSize) (hk : k < bs.length) :
    (m.place a bs).read (a + k) = bs[k] := by
  induction bs generalizing a k with
  | nil => simp at hk
  | cons v bs ih =>
    simp only [List.length_cons] at ha hk
    rw [Memory.place]
    cases k with
    | zero =>
      simpa using Memory.read_write_same (Memory.wf_place hm (by omega)) a v
    | succ k =>
      rw [Memory.read_write_ne _ _ (by omega)]
      have := ih (a := a + 1) (k := k) (by omega) (by omega)
      rw [show a + (k + 1) = a + 1 + k by omega, this]
      simp

/-! ## The access check (20_memory.md R53) -/

theorem addressFault_none {kind : Access} {a : Nat} :
    addressFault kind a = none ↔ a ≤ 0xFFF ∧ (kind = .write → 0x04F < a) := by
  unfold addressFault
  by_cases h1 : a > 0xFFF
  · simp only [h1, if_true, reduceCtorEq, false_iff]
    omega
  · by_cases h2 : kind = .write ∧ a ≤ 0x04F
    · simp only [h1, h2, if_false, if_true, and_self, reduceCtorEq, false_iff]
      rintro ⟨-, h3⟩
      exact absurd (h3 trivial) (by omega)
    · simp only [h1, h2, if_false, true_iff]
      refine ⟨by omega, fun hk => ?_⟩
      by_contra h3
      exact h2 ⟨hk, by omega⟩

/-- The check passes exactly when every address passes. -/
theorem firstFailure_none {kind : Access} {a n : Nat} :
    firstFailure kind a n = none ↔
      ∀ b, a ≤ b → b < a + n → b ≤ 0xFFF ∧ (kind = .write → 0x04F < b) := by
  induction n generalizing a with
  | zero => simp only [firstFailure, true_iff]; omega
  | succ n ih =>
    simp only [firstFailure]
    cases hf : addressFault kind a with
    | some c =>
      simp only [reduceCtorEq, false_iff]
      intro h
      have := addressFault_none.mpr (h a (Nat.le_refl a) (by omega))
      simp [hf] at this
    | none =>
      have ha := addressFault_none.mp hf
      simp only [ih]
      constructor
      · intro h b hb hb'
        by_cases he : b = a
        · subst he; exact ha
        · exact h b (by omega) (by omega)
      · intro h b hb hb'
        exact h b (by omega) (by omega)

/-- The check fails at the lowest failing address, with that address's cause. -/
theorem firstFailure_some {kind : Access} {a n b : Nat} {c : HaltCause}
    (h : firstFailure kind a n = some (c, b)) :
    a ≤ b ∧ b < a + n ∧ addressFault kind b = some c ∧
      ∀ d, a ≤ d → d < b → addressFault kind d = none := by
  induction n generalizing a with
  | zero => simp [firstFailure] at h
  | succ n ih =>
    simp only [firstFailure] at h
    cases hf : addressFault kind a with
    | some c' =>
      simp only [hf, Option.some.injEq, Prod.mk.injEq] at h
      obtain ⟨rfl, rfl⟩ := h
      exact ⟨Nat.le_refl _, by omega, hf, fun d h1 h2 => by omega⟩
    | none =>
      simp only [hf] at h
      obtain ⟨h1, h2, h3, h4⟩ := ih h
      refine ⟨by omega, by omega, h3, fun d hd hd' => ?_⟩
      by_cases he : d = a
      · subst he; exact hf
      · exact h4 d (by omega) hd'

/-- A guarded instruction halts at the first failing address or has its effect. -/
theorem guarded_cases (kind : Access) (n : Nat) (s done : State) :
    (firstFailure kind s.i.toNat n = none ∧ guarded kind n s done = done) ∨
      ∃ c a, firstFailure kind s.i.toNat n = some (c, a) ∧
        guarded kind n s done = s.raise c a := by
  unfold guarded
  cases h : firstFailure kind s.i.toNat n with
  | none => exact .inl ⟨rfl, rfl⟩
  | some p => exact .inr ⟨p.1, p.2, rfl, rfl⟩

/-- The causes an address can fail with. -/
theorem addressFault_cause {kind : Access} {a : Nat} {c : HaltCause}
    (h : addressFault kind a = some c) : c ≠ .none := by
  unfold addressFault at h
  split at h
  · cases h; decide
  · split at h
    · cases h; decide
    · cases h

end Sys2Proof.Machine
end

