-- ==== Sys2Proof/Laws/Ops.lean ====
section
/-!
SUPPORT. One lemma per shared operation that says everything it can do: halting, skipping, the
stack, the framebuffer, the transfers through I, the key choice, and what any instruction and any
step can end in.
-/

namespace Sys2Proof.Machine

/-! ## Halting -/

/-- A halt at `pc0` is the halt entry and nothing else (60_exceptions.md R180). -/
theorem State.haltAt_haltedBy (s : State) (pc0 : Word) (c : HaltCause) {a : Nat}
    (h : a < 2 ^ 17) : HaltedBy s (s.haltAt pc0 c a) pc0 c a := by
  constructor <;> simp
  omega

theorem State.raise_haltedBy (s : State) (c : HaltCause) {a : Nat} (h : a < 2 ^ 17) :
    HaltedBy s (s.raise c a) (s.pc - 2#16) c a := s.haltAt_haltedBy _ c h

/-- An address an instruction reaches through I fits HALT_ADDR's 17 bits. -/
theorem indexed_lt (s : State) {n a : Nat} (hn : n ≤ 16) (h : a < s.i.toNat + n) : a < 2 ^ 17 := by
  have := s.i.isLt
  omega

/-- A guarded instruction whose addresses all pass has its effect. -/
theorem guarded_pass {kind : Access} {n : Nat} {s done : State}
    (h : Accessible kind s.i.toNat n) : guarded kind n s done = done := by
  have : firstFailure kind s.i.toNat n = none :=
    firstFailure_none.mpr fun b h1 h2 => h b ⟨h1, h2⟩
  simp [guarded, this]

/-- A guarded instruction with a first failing address halts there. -/
theorem guarded_fail {kind : Access} {n a : Nat} {c : HaltCause} {s done : State}
    (h : IsFirstFailure kind s.i.toNat n a c) : guarded kind n s done = s.raise c a := by
  obtain ⟨⟨h1, h2⟩, hc, hb⟩ := h
  have ha : addressFault kind a = some c := by
    unfold addressFault
    rcases hc with ⟨h, rfl⟩ | ⟨rfl, h, rfl⟩
    · simp [h]
    · have : ¬ a > 0xFFF := by omega
      simp [this, h]
  rcases guarded_cases kind n s done with ⟨hn, -⟩ | ⟨c', a', hs, hg⟩
  · have := addressFault_none.mpr (firstFailure_none.mp hn a h1 h2)
    simp [ha] at this
  · obtain ⟨h1', h2', h3', h4'⟩ := firstFailure_some hs
    have : a' = a := by
      rcases Nat.lt_trichotomy a' a with h | h | h
      · have := addressFault_none.mpr (hb a' h1' h)
        simp [h3'] at this
      · exact h
      · have := h4' a h1 h
        simp [ha] at this
    subst this
    rw [ha] at h3'
    cases h3'
    exact hg

/-! ## Skips -/

@[simp] theorem State.skipIf_pc (s : State) (c : Bool) :
    (s.skipIf c).pc = if c then s.pc + 2#16 else s.pc := by
  unfold State.skipIf; split <;> rfl

/-- A skip changes PC alone (40_control_flow.md R110). -/
theorem State.skipIf_eq (s : State) (c : Bool) : s.skipIf c = s.setPc (s.skipIf c).pc := by
  unfold State.skipIf; split <;> rfl

/-! ## The return stack (10_state.md R26) -/

theorem State.push_none (s : State) (a : Word) : s.push a = none ↔ s.sp.val = 16 := by
  have := s.sp.isLt
  unfold State.push
  split
  · simp; omega
  · simp; omega

theorem State.push_some {s t : State} {a : Word} (h : s.push a = some t) :
    s.sp.val < 16 ∧ t.sp.val = s.sp.val + 1 ∧
      (∀ k : Fin 16, t.stack[k.val] = if k.val = s.sp.val then a else s.stack[k.val]) ∧
      t = { s with stack := t.stack, sp := t.sp } := by
  unfold State.push at h
  split at h
  · next hlt =>
    cases h
    refine ⟨hlt, rfl, fun k => ?_, rfl⟩
    by_cases hk : k.val = s.sp.val
    · simp [hk]
    · simp [hk, Ne.symm hk]
  · cases h

theorem State.pop_none (s : State) : s.pop = none ↔ s.sp.val = 0 := by
  unfold State.pop
  split
  · simp; omega
  · simp; omega

theorem State.pop_some {s t : State} {a : Word} (h : s.pop = some (a, t)) :
    0 < s.sp.val ∧ t.sp.val = s.sp.val - 1 ∧
      (∀ k : Fin 16, k.val = s.sp.val - 1 → a = s.stack[k.val]) ∧
      t = { s with sp := t.sp } := by
  unfold State.pop at h
  split at h
  · next hlt =>
    cases h
    refine ⟨hlt, rfl, fun k hk => ?_, rfl⟩
    simp [hk]
  · cases h

/-! ## The framebuffer (10_state.md R30) -/

@[simp] theorem Framebuffer.pixel_blank (col : Fin 64) (row : Fin 32) :
    Framebuffer.pixel Framebuffer.blank col row = false := by
  simp [Framebuffer.pixel, Framebuffer.blank]

/-- A flip inverts its own pixel and no other. -/
theorem Framebuffer.pixel_flip (fb : Framebuffer) (c col : Fin 64) (r row : Fin 32) :
    Framebuffer.pixel (Framebuffer.flip fb c r) col row =
      (Framebuffer.pixel fb col row ^^ (decide (col = c) && decide (row = r))) := by
  unfold Framebuffer.pixel Framebuffer.flip
  by_cases hr : row = r
  · subst hr
    simp [Fin.ext_iff, eq_comm]
  · have : r.val ≠ row.val := fun e => hr (Fin.ext e.symm)
    simp [this, hr]

/-- Two framebuffers with the same pixels are the same. -/
theorem Framebuffer.ext_pixel {f g : Framebuffer}
    (h : ∀ col row, Framebuffer.pixel f col row = Framebuffer.pixel g col row) : f = g := by
  apply Vector.ext
  intro r hr
  apply BitVec.eq_of_getLsbD_eq
  intro c hc
  exact h ⟨c, hc⟩ ⟨r, hr⟩

/-! ## Transfers through I -/

/-- Storing registers changes memory alone. -/
theorem storeRegs_eq (base n : Nat) (s : State) :
    storeRegs base n s = { s with mem := (storeRegs base n s).mem } := by
  induction n with
  | zero => rfl
  | succ n ih => rw [storeRegs, ih]; rfl

theorem storeRegs_wf {base n : Nat} {s : State} (hm : s.mem.wf = true)
    (h : base + n ≤ Config.memSize) : (storeRegs base n s).mem.wf = true := by
  induction n with
  | zero => exact hm
  | succ n ih => exact Memory.wf_write _ (ih (by omega)) (by omega)

theorem storeRegs_outside (base n : Nat) (s : State) {a : Nat} (h : ¬ span base n a) :
    (storeRegs base n s).mem.read a = s.mem.read a := by
  induction n with
  | zero => rfl
  | succ n ih =>
    simp only [span] at h ih
    rw [storeRegs, State.store_mem, Memory.read_write_ne _ _ (by omega)]
    exact ih (by omega)

theorem storeRegs_inside {base n k : Nat} {s : State} (hm : s.mem.wf = true)
    (h : base + n ≤ Config.memSize) (hk : k < n) :
    (storeRegs base n s).mem.read (base + k) = s.reg (BitVec.ofNat 4 k) := by
  induction n with
  | zero => omega
  | succ n ih =>
    have hw := storeRegs_wf (base := base) (n := n) hm (by omega)
    rw [storeRegs, State.store_mem]
    by_cases hkn : k = n
    · subst hkn
      rw [Memory.read_write_same hw, storeRegs_eq]
      rfl
    · rw [Memory.read_write_ne _ _ (by omega)]
      exact ih (by omega) (by omega)

/-- Loading registers changes the register file alone. -/
theorem loadRegs_eq (base n : Nat) (s : State) :
    loadRegs base n s = { s with v := (loadRegs base n s).v } := by
  induction n with
  | zero => rfl
  | succ n ih => rw [loadRegs, ih]; rfl

theorem loadRegs_reg {base n : Nat} {s : State} (hn : n ≤ 16) (r : Nibble) :
    (loadRegs base n s).reg r =
      if r.toNat < n then s.mem.read (base + r.toNat) else s.reg r := by
  induction n with
  | zero => simp [loadRegs]
  | succ n ih =>
    have hmem : (loadRegs base n s).mem = s.mem := by rw [loadRegs_eq]
    rw [loadRegs, State.reg_setReg, hmem, ih (by omega)]
    have hto : (BitVec.ofNat 4 n).toNat = n := by simp; omega
    by_cases hr : r = BitVec.ofNat 4 n
    · subst hr
      simp [hto]
    · have : r.toNat ≠ n := fun e => hr (BitVec.eq_of_toNat_eq (by rw [hto, e]))
      by_cases h1 : r.toNat < n
      · simp [hr, h1, Nat.lt_succ_of_lt h1]
      · have : ¬ r.toNat < n + 1 := by omega
        simp [hr, h1, this]

/-! ## WAITK's key -/

theorem lowestPressed_pressed {keys : Keys} (h : keys ≠ 0#16) :
    keyPressed keys (lowestPressed keys) = true := by
  unfold lowestPressed keyPressed
  cases hf : (List.range 16).find? (fun k => keys.getLsbD k) with
  | none =>
    exfalso
    apply h
    apply BitVec.eq_of_getLsbD_eq
    intro k hk
    have := List.find?_eq_none.mp hf k (List.mem_range.mpr hk)
    simpa using this
  | some k =>
    have h1 := List.find?_some hf
    have h2 := List.mem_range.mp (List.mem_of_find?_eq_some hf)
    simp only [Option.getD_some, BitVec.toNat_ofNat]
    rw [Nat.mod_eq_of_lt (by omega)]
    exact h1

/-- Whatever the implementation chooses, WAITK takes a pressed key (44_timers_keys.md R168). -/
theorem waitKeySelect_pressed {keys : Keys} (h : keys ≠ 0#16) :
    keyPressed keys (waitKeySelect keys) = true := by
  unfold waitKeySelect
  split
  · next hp => exact hp
  · exact lowestPressed_pressed h

/-! ## What an instruction can end in -/

theorem State.keyIndex_some {s : State} {x k : Nibble} (h : s.keyIndex x = some k) :
    (s.reg x).toNat ≤ 0xF ∧ k.toNat = (s.reg x).toNat := by
  unfold State.keyIndex at h
  split at h
  · cases h
  · next hle =>
    cases h
    refine ⟨by omega, ?_⟩
    simp only [BitVec.toNat_setWidth]
    omega

theorem State.keyIndex_none {s : State} {x : Nibble} :
    s.keyIndex x = none ↔ (s.reg x).toNat > 0xF := by
  unfold State.keyIndex
  split <;> simp_all

/-- The engine's own fields survive a guarded effect that leaves them alone. -/
theorem guarded_ends {kind : Access} {n : Nat} {s done : State} (hn : n ≤ 16)
    (h : SameEngine s done) :
    (∃ c a, c ≠ .none ∧ a < 2 ^ 17 ∧ guarded kind n s done = s.raise c a) ∨
      SameEngine s (guarded kind n s done) := by
  rcases guarded_cases kind n s done with ⟨-, hg⟩ | ⟨c, a, hf, hg⟩
  · exact .inr (by rw [hg]; exact h)
  · obtain ⟨-, h2, h3, -⟩ := firstFailure_some hf
    exact .inl ⟨c, a, addressFault_cause h3, indexed_lt s hn h2, hg⟩

/-- Every instruction has a next state: it halts with a cause, or it leaves the engine's own fields
alone (60_exceptions.md R180; 10_state.md R36). -/
theorem exec_ends (i : Instr) (s : State) :
    ∃ t, exec i s = .next t ∧
      ((∃ c a, c ≠ .none ∧ a < 2 ^ 17 ∧ t = s.raise c a) ∨ SameEngine s t) := by
  cases i
  case ret ign =>
    rcases h : s.pop with _ | ⟨a, p⟩
    · exact ⟨s.raise .stackUnderflow 0, by simp [exec, execRet, h],
        .inl ⟨_, _, by decide, by decide, rfl⟩⟩
    · refine ⟨p.setPc a, by simp [exec, execRet, h], .inr ?_⟩
      rw [(State.pop_some h).2.2.2]
      constructor <;> rfl
  case call nnn =>
    rcases h : s.push s.pc with _ | p
    · exact ⟨s.raise .stackOverflow 16, by simp [exec, execCall, h],
        .inl ⟨_, _, by decide, by decide, rfl⟩⟩
    · refine ⟨p.setPc (addrOperand nnn), by simp [exec, execCall, h], .inr ?_⟩
      rw [(State.push_some h).2.2.2]
      constructor <;> rfl
  case skp x =>
    rcases h : s.keyIndex x with _ | k
    · exact ⟨s.raise .keyRange (s.reg x).toNat, by simp [exec, execSkp, h],
        .inl ⟨_, _, by decide, by omega, rfl⟩⟩
    · refine ⟨s.skipIf (keyPressed s.key k), by simp [exec, execSkp, h], .inr ?_⟩
      rw [State.skipIf_eq]
      constructor <;> rfl
  case sknp x =>
    rcases h : s.keyIndex x with _ | k
    · exact ⟨s.raise .keyRange (s.reg x).toNat, by simp [exec, execSknp, h],
        .inl ⟨_, _, by decide, by omega, rfl⟩⟩
    · refine ⟨s.skipIf (!keyPressed s.key k), by simp [exec, execSknp, h], .inr ?_⟩
      rw [State.skipIf_eq]
      constructor <;> rfl
  case waitk x =>
    by_cases h : s.key = 0#16
    · exact ⟨s.setPc (s.pc - 2#16), by simp [exec, execWaitk, h], .inr (by constructor <;> rfl)⟩
    · exact ⟨s.setReg x ((waitKeySelect s.key).setWidth 8), by simp [exec, execWaitk, h],
        .inr (by constructor <;> rfl)⟩
  case seqi x nn | snei x nn | seqr x y ign | sner x y ign =>
    refine ⟨_, rfl, .inr ?_⟩
    rw [State.skipIf_eq]
    constructor <;> rfl
  case bcd x => exact ⟨_, rfl, guarded_ends (by omega) (by constructor <;> rfl)⟩
  case drw x y n =>
    exact ⟨_, rfl, guarded_ends (by omega) (by constructor <;> rfl)⟩
  case stregs x =>
    refine ⟨_, rfl, guarded_ends (by omega) ?_⟩
    rw [storeRegs_eq]
    constructor <;> rfl
  case ldregs x =>
    refine ⟨_, rfl, guarded_ends (by omega) ?_⟩
    rw [loadRegs_eq]
    constructor <;> rfl
  all_goals exact ⟨_, rfl, .inr (by constructor <;> rfl)⟩

/-- In a batch a step either fails its fetch or runs the instruction at PC and spends one unit of
the budget (60_exceptions.md R188). -/
theorem step_in_batch {s : State} (h : InBatch s) :
    (s.pc.toNat > 0xFFE ∧ step s = .next (fetchHalt s)) ∨
      (s.pc.toNat ≤ 0xFFE ∧
        ∃ t, exec (decode (s.mem.readWord s.pc.toNat)) s.advance = .next t ∧
          step s = .next t.spend) := by
  obtain ⟨hes, hb⟩ := h
  by_cases hpc : s.pc.toNat > lastFetch
  · exact .inl ⟨hpc, by simp [step, hes, hb, fetch, hpc]⟩
  · obtain ⟨t, ht, -⟩ := exec_ends (decode (s.mem.readWord s.pc.toNat)) s.advance
    exact .inr ⟨Nat.le_of_not_lt hpc, t, ht, by simp [step, hes, hb, fetch, hpc, ht, retire]⟩

/-- Outside a batch a step is what the engine does in its state. -/
theorem step_outside_batch {s : State} (h : ¬ InBatch s) :
    step s = .next (match s.es with
      | .reset => awaitLoad s
      | .running => betweenBatches s
      | .halted => whileHalted s
      | .terminated => whileTerminated s) := by
  unfold step
  cases hes : s.es with
  | running =>
    have : s.budget = 0 := by
      by_contra hb
      exact h ⟨hes, hb⟩
    simp [this]
  | _ => rfl

end Sys2Proof.Machine
end

