-- ==== Sys2Proof/Laws/PerInstr.lean ====
section
/-!
SUPPORT. Statements made of every instruction, one lemma per constructor. Family `WordInRow`: the
word of a well-formed instruction lies in the row of the opcode map that bears its mnemonic
(spec/30_encoding.md R90).
-/

namespace Sys2Proof.Laws.WordInRow

/-- The word of the instruction belongs to its own row of the opcode map. -/
def Statement (i : Instr) : Prop :=
  i.wf = true → ∃ r ∈ opcodeMap, r.mnemonic = mnemonic i ∧ rowMatches (encode i) r = true

theorem cls (ign : Nibble) : Statement (.cls ign) := fun _ =>
  ⟨⟨"CLS", 0x00E0#16, 0xF0FF#16⟩, by decide, rfl, beq_iff_eq.mpr ((mask_byte _ 0x0#4 0xE0#8).mpr ⟨by simp [encode], by simp [encode]⟩)⟩

theorem ret (ign : Nibble) : Statement (.ret ign) := fun _ =>
  ⟨⟨"RET", 0x00EE#16, 0xF0FF#16⟩, by decide, rfl, beq_iff_eq.mpr ((mask_byte _ 0x0#4 0xEE#8).mpr ⟨by simp [encode], by simp [encode]⟩)⟩

theorem sys (ign : Addr) : Statement (.sys ign) := fun _ =>
  ⟨⟨"SYS", 0x0000#16, 0xF000#16⟩, by decide, rfl, beq_iff_eq.mpr ((mask_primary _ 0x0#4).mpr (by simp [encode]))⟩

theorem jp (nnn : Addr) : Statement (.jp nnn) := fun _ =>
  ⟨⟨"JP", 0x1000#16, 0xF000#16⟩, by decide, rfl, beq_iff_eq.mpr ((mask_primary _ 0x1#4).mpr (by simp [encode]))⟩

theorem call (nnn : Addr) : Statement (.call nnn) := fun _ =>
  ⟨⟨"CALL", 0x2000#16, 0xF000#16⟩, by decide, rfl, beq_iff_eq.mpr ((mask_primary _ 0x2#4).mpr (by simp [encode]))⟩

theorem seqi (x : Nibble) (nn : Byte) : Statement (.seqi x nn) := fun _ =>
  ⟨⟨"SEQI", 0x3000#16, 0xF000#16⟩, by decide, rfl, beq_iff_eq.mpr ((mask_primary _ 0x3#4).mpr (by simp [encode]))⟩

theorem snei (x : Nibble) (nn : Byte) : Statement (.snei x nn) := fun _ =>
  ⟨⟨"SNEI", 0x4000#16, 0xF000#16⟩, by decide, rfl, beq_iff_eq.mpr ((mask_primary _ 0x4#4).mpr (by simp [encode]))⟩

theorem seqr (x y ign : Nibble) : Statement (.seqr x y ign) := fun _ =>
  ⟨⟨"SEQR", 0x5000#16, 0xF000#16⟩, by decide, rfl, beq_iff_eq.mpr ((mask_primary _ 0x5#4).mpr (by simp [encode]))⟩

theorem movi (x : Nibble) (nn : Byte) : Statement (.movi x nn) := fun _ =>
  ⟨⟨"MOVI", 0x6000#16, 0xF000#16⟩, by decide, rfl, beq_iff_eq.mpr ((mask_primary _ 0x6#4).mpr (by simp [encode]))⟩

theorem addi (x : Nibble) (nn : Byte) : Statement (.addi x nn) := fun _ =>
  ⟨⟨"ADDI", 0x7000#16, 0xF000#16⟩, by decide, rfl, beq_iff_eq.mpr ((mask_primary _ 0x7#4).mpr (by simp [encode]))⟩

theorem mov (x y : Nibble) : Statement (.mov x y) := fun _ =>
  ⟨⟨"MOV", 0x8000#16, 0xF00F#16⟩, by decide, rfl, beq_iff_eq.mpr ((mask_nibble _ 0x8#4 0x0#4).mpr ⟨by simp [encode], by simp [encode]⟩)⟩

theorem or (x y : Nibble) : Statement (.or x y) := fun _ =>
  ⟨⟨"OR", 0x8001#16, 0xF00F#16⟩, by decide, rfl, beq_iff_eq.mpr ((mask_nibble _ 0x8#4 0x1#4).mpr ⟨by simp [encode], by simp [encode]⟩)⟩

theorem and (x y : Nibble) : Statement (.and x y) := fun _ =>
  ⟨⟨"AND", 0x8002#16, 0xF00F#16⟩, by decide, rfl, beq_iff_eq.mpr ((mask_nibble _ 0x8#4 0x2#4).mpr ⟨by simp [encode], by simp [encode]⟩)⟩

theorem xor (x y : Nibble) : Statement (.xor x y) := fun _ =>
  ⟨⟨"XOR", 0x8003#16, 0xF00F#16⟩, by decide, rfl, beq_iff_eq.mpr ((mask_nibble _ 0x8#4 0x3#4).mpr ⟨by simp [encode], by simp [encode]⟩)⟩

theorem add (x y : Nibble) : Statement (.add x y) := fun _ =>
  ⟨⟨"ADD", 0x8004#16, 0xF00F#16⟩, by decide, rfl, beq_iff_eq.mpr ((mask_nibble _ 0x8#4 0x4#4).mpr ⟨by simp [encode], by simp [encode]⟩)⟩

theorem sub (x y : Nibble) : Statement (.sub x y) := fun _ =>
  ⟨⟨"SUB", 0x8005#16, 0xF00F#16⟩, by decide, rfl, beq_iff_eq.mpr ((mask_nibble _ 0x8#4 0x5#4).mpr ⟨by simp [encode], by simp [encode]⟩)⟩

theorem shr (x ign : Nibble) : Statement (.shr x ign) := fun _ =>
  ⟨⟨"SHR", 0x8006#16, 0xF00F#16⟩, by decide, rfl, beq_iff_eq.mpr ((mask_nibble _ 0x8#4 0x6#4).mpr ⟨by simp [encode], by simp [encode]⟩)⟩

theorem subn (x y : Nibble) : Statement (.subn x y) := fun _ =>
  ⟨⟨"SUBN", 0x8007#16, 0xF00F#16⟩, by decide, rfl, beq_iff_eq.mpr ((mask_nibble _ 0x8#4 0x7#4).mpr ⟨by simp [encode], by simp [encode]⟩)⟩

theorem shl (x ign : Nibble) : Statement (.shl x ign) := fun _ =>
  ⟨⟨"SHL", 0x800E#16, 0xF00F#16⟩, by decide, rfl, beq_iff_eq.mpr ((mask_nibble _ 0x8#4 0xE#4).mpr ⟨by simp [encode], by simp [encode]⟩)⟩

theorem nop8 (ign : Addr) : Statement (.nop8 ign) := fun _ =>
  ⟨⟨"NOP8", 0x8000#16, 0xF000#16⟩, by decide, rfl, beq_iff_eq.mpr ((mask_primary _ 0x8#4).mpr (by simp [encode]))⟩

theorem sner (x y ign : Nibble) : Statement (.sner x y ign) := fun _ =>
  ⟨⟨"SNER", 0x9000#16, 0xF000#16⟩, by decide, rfl, beq_iff_eq.mpr ((mask_primary _ 0x9#4).mpr (by simp [encode]))⟩

theorem ldidx (nnn : Addr) : Statement (.ldidx nnn) := fun _ =>
  ⟨⟨"LDIDX", 0xA000#16, 0xF000#16⟩, by decide, rfl, beq_iff_eq.mpr ((mask_primary _ 0xA#4).mpr (by simp [encode]))⟩

theorem jpv0 (nnn : Addr) : Statement (.jpv0 nnn) := fun _ =>
  ⟨⟨"JPV0", 0xB000#16, 0xF000#16⟩, by decide, rfl, beq_iff_eq.mpr ((mask_primary _ 0xB#4).mpr (by simp [encode]))⟩

theorem rnd (x : Nibble) (nn : Byte) : Statement (.rnd x nn) := fun _ =>
  ⟨⟨"RND", 0xC000#16, 0xF000#16⟩, by decide, rfl, beq_iff_eq.mpr ((mask_primary _ 0xC#4).mpr (by simp [encode]))⟩

theorem drw (x y n : Nibble) : Statement (.drw x y n) := fun _ =>
  ⟨⟨"DRW", 0xD000#16, 0xF000#16⟩, by decide, rfl, beq_iff_eq.mpr ((mask_primary _ 0xD#4).mpr (by simp [encode]))⟩

theorem skp (x : Nibble) : Statement (.skp x) := fun _ =>
  ⟨⟨"SKP", 0xE09E#16, 0xF0FF#16⟩, by decide, rfl, beq_iff_eq.mpr ((mask_byte _ 0xE#4 0x9E#8).mpr ⟨by simp [encode], by simp [encode]⟩)⟩

theorem sknp (x : Nibble) : Statement (.sknp x) := fun _ =>
  ⟨⟨"SKNP", 0xE0A1#16, 0xF0FF#16⟩, by decide, rfl, beq_iff_eq.mpr ((mask_byte _ 0xE#4 0xA1#8).mpr ⟨by simp [encode], by simp [encode]⟩)⟩

theorem nope (ign : Addr) : Statement (.nope ign) := fun _ =>
  ⟨⟨"NOPE", 0xE000#16, 0xF000#16⟩, by decide, rfl, beq_iff_eq.mpr ((mask_primary _ 0xE#4).mpr (by simp [encode]))⟩

theorem getdt (x : Nibble) : Statement (.getdt x) := fun _ =>
  ⟨⟨"GETDT", 0xF007#16, 0xF0FF#16⟩, by decide, rfl, beq_iff_eq.mpr ((mask_byte _ 0xF#4 0x07#8).mpr ⟨by simp [encode], by simp [encode]⟩)⟩

theorem waitk (x : Nibble) : Statement (.waitk x) := fun _ =>
  ⟨⟨"WAITK", 0xF00A#16, 0xF0FF#16⟩, by decide, rfl, beq_iff_eq.mpr ((mask_byte _ 0xF#4 0x0A#8).mpr ⟨by simp [encode], by simp [encode]⟩)⟩

theorem setdt (x : Nibble) : Statement (.setdt x) := fun _ =>
  ⟨⟨"SETDT", 0xF015#16, 0xF0FF#16⟩, by decide, rfl, beq_iff_eq.mpr ((mask_byte _ 0xF#4 0x15#8).mpr ⟨by simp [encode], by simp [encode]⟩)⟩

theorem setst (x : Nibble) : Statement (.setst x) := fun _ =>
  ⟨⟨"SETST", 0xF018#16, 0xF0FF#16⟩, by decide, rfl, beq_iff_eq.mpr ((mask_byte _ 0xF#4 0x18#8).mpr ⟨by simp [encode], by simp [encode]⟩)⟩

theorem addidx (x : Nibble) : Statement (.addidx x) := fun _ =>
  ⟨⟨"ADDIDX", 0xF01E#16, 0xF0FF#16⟩, by decide, rfl, beq_iff_eq.mpr ((mask_byte _ 0xF#4 0x1E#8).mpr ⟨by simp [encode], by simp [encode]⟩)⟩

theorem font (x : Nibble) : Statement (.font x) := fun _ =>
  ⟨⟨"FONT", 0xF029#16, 0xF0FF#16⟩, by decide, rfl, beq_iff_eq.mpr ((mask_byte _ 0xF#4 0x29#8).mpr ⟨by simp [encode], by simp [encode]⟩)⟩

theorem bcd (x : Nibble) : Statement (.bcd x) := fun _ =>
  ⟨⟨"BCD", 0xF033#16, 0xF0FF#16⟩, by decide, rfl, beq_iff_eq.mpr ((mask_byte _ 0xF#4 0x33#8).mpr ⟨by simp [encode], by simp [encode]⟩)⟩

theorem stregs (x : Nibble) : Statement (.stregs x) := fun _ =>
  ⟨⟨"STREGS", 0xF055#16, 0xF0FF#16⟩, by decide, rfl, beq_iff_eq.mpr ((mask_byte _ 0xF#4 0x55#8).mpr ⟨by simp [encode], by simp [encode]⟩)⟩

theorem ldregs (x : Nibble) : Statement (.ldregs x) := fun _ =>
  ⟨⟨"LDREGS", 0xF065#16, 0xF0FF#16⟩, by decide, rfl, beq_iff_eq.mpr ((mask_byte _ 0xF#4 0x65#8).mpr ⟨by simp [encode], by simp [encode]⟩)⟩

theorem nopf (ign : Addr) : Statement (.nopf ign) := fun _ =>
  ⟨⟨"NOPF", 0xF000#16, 0xF000#16⟩, by decide, rfl, beq_iff_eq.mpr ((mask_primary _ 0xF#4).mpr (by simp [encode]))⟩

end Sys2Proof.Laws.WordInRow
end

