-- ==== Sys2Proof/Tests/Slice0.lean ====
section
/-!
SUPPORT. Tests. Expected results come from spec/95_test_vectors.md (the vector's id is named) or are
worked out from the rule named. Each instruction test places one word and takes one step. The
`witness_` theorems at the end show that the hypotheses of each statement can be met, each clause at
a boundary value.
-/

namespace Sys2Proof.Tests

open Sys2Proof Sys2Proof.Machine

/-! ## Well-formedness: one ill-formed term for each check (30_encoding.md R85-R88) -/

theorem test_wf_sys : (Instr.sys 0x1E0).wf = false ∧ (Instr.sys 0x0EE).wf = false ∧
    (Instr.sys 0x0E1).wf = true := by decide
theorem test_wf_nop8 : (Instr.nop8 0xAB7).wf = false ∧ (Instr.nop8 0xABE).wf = false ∧
    (Instr.nop8 0xAB8).wf = true := by decide
theorem test_wf_nope : (Instr.nope 0x19E).wf = false ∧ (Instr.nope 0x1A1).wf = false ∧
    (Instr.nope 0x1A2).wf = true := by decide
theorem test_wf_nopf : (Instr.nopf 0x107).wf = false ∧ (Instr.nopf 0x165).wf = false ∧
    (Instr.nopf 0x100).wf = true := by decide
theorem test_wf_operands : (Instr.drw 0xF 0xF 0xF).wf = true ∧ (Instr.call 0xFFF).wf = true := by
  decide

/-! ## Decoding: words written out from the encodings of 30_encoding.md R85-R90 -/

theorem test_decode_system : decode 0b0000000011100000 = .cls 0 ∧
    decode 0b0000000111100000 = .cls 1 ∧ decode 0b0000101011101110 = .ret 0xA ∧
    decode 0b0000000011100001 = .sys 0x0E1 ∧ decode 0b0000000000000000 = .sys 0 := by decide
theorem test_decode_jumps : decode 0b0001101010111100 = .jp 0xABC ∧
    decode 0b0010010000000000 = .call 0x400 ∧ decode 0b1011111100000001 = .jpv0 0xF01 := by decide
theorem test_decode_skips : decode 0b0011001100010001 = .seqi 3 0x11 ∧
    decode 0b0100001100010001 = .snei 3 0x11 ∧ decode 0b0101000100100001 = .seqr 1 2 1 ∧
    decode 0b1001000100101111 = .sner 1 2 0xF := by decide
theorem test_decode_immediates : decode 0b0110111101000010 = .movi 0xF 0x42 ∧
    decode 0b0111010000000010 = .addi 4 2 ∧ decode 0b1100001101010101 = .rnd 3 0x55 := by decide
theorem test_decode_logic : decode 0b1000101010110000 = .mov 0xA 0xB ∧
    decode 0b1000101010110001 = .or 0xA 0xB ∧ decode 0b1000101010110010 = .and 0xA 0xB ∧
    decode 0b1000101010110011 = .xor 0xA 0xB := by decide
theorem test_decode_arithmetic : decode 0b1000101010110100 = .add 0xA 0xB ∧
    decode 0b1000101010110101 = .sub 0xA 0xB ∧ decode 0b1000101010110110 = .shr 0xA 0xB ∧
    decode 0b1000101010110111 = .subn 0xA 0xB ∧ decode 0b1000101010111110 = .shl 0xA 0xB := by
  decide
theorem test_decode_nop8 : decode 0b1000101010111000 = .nop8 0xAB8 ∧
    decode 0b1000101010111101 = .nop8 0xABD ∧ decode 0b1000101010111111 = .nop8 0xABF := by decide
theorem test_decode_display : decode 0b1010111111111111 = .ldidx 0xFFF ∧
    decode 0b1101000000010010 = .drw 0 1 2 := by decide
theorem test_decode_keys : decode 0b1110000110011110 = .skp 1 ∧
    decode 0b1110000110100001 = .sknp 1 ∧ decode 0b1110000110011111 = .nope 0x19F ∧
    decode 0b1110000110100010 = .nope 0x1A2 := by decide
theorem test_decode_timers : decode 0b1111010100000111 = .getdt 5 ∧
    decode 0b1111001100001010 = .waitk 3 ∧ decode 0b1111000100010101 = .setdt 1 ∧
    decode 0b1111000100011000 = .setst 1 := by decide
theorem test_decode_index : decode 0b1111101000011110 = .addidx 0xA ∧
    decode 0b1111011100101001 = .font 7 ∧ decode 0b1111000000110011 = .bcd 0 ∧
    decode 0b1111111101010101 = .stregs 0xF ∧ decode 0b1111010001100101 = .ldregs 4 := by decide
theorem test_decode_nopf : decode 0b1111000100000000 = .nopf 0x100 ∧
    decode 0b1111000111111111 = .nopf 0x1FF ∧ decode 0b1111111111111111 = .nopf 0xFFF := by decide

/-- The byte at the lower address is bits 15-8 (R80), and one byte is no instruction. -/
theorem test_decode_bytes : decodeBytes [0x12, 0x34, 0x56] = .ok (.jp 0x234, [0x56]) ∧
    decodeBytes [0x12] = .error (.truncated 1) ∧ decodeBytes [] = .error (.truncated 0) := by
  decide
theorem test_encode_bytes : encodeBytes (.call 0x3FF) = [0x23, 0xFF] := by decide
theorem test_table_word : decodeTableWord 16 0x8AB4 = some (.add 0xA 0xB) ∧
    decodeTableWord 17 0 = none := by decide
/-- The assembler's word has its ignored fields 0 (R93). -/
theorem test_canonical_word : encode (canonical (.shl 0xA 0xB)) = 0x8A0E ∧
    encode (canonical (.cls 1)) = 0x00E0 ∧ encode (canonical (.sner 1 2 0xF)) = 0x9120 := by decide
/-- Spellings of R92, as the programs of 95_test_vectors.md section 3 write them. -/
theorem test_assembly : assembly (.ldidx 0x20C) = "LD I, 20C" ∧
    assembly (.drw 0 1 2) = "DRW V0, V1, 2" ∧ assembly (.addidx 0xA) = "ADD I, VA" ∧
    assembly (.ldregs 2) = "LD V2, [I]" := by decide

/-! ## One instruction -/

/-- A state in a batch, with PC = 0x200. -/
def batch : State := { State.reset with es := .running, budget := 3 }

/-- `batch` with some registers set. -/
def withRegs (regs : List (Nibble × Byte)) (s : State := batch) : State :=
  regs.foldl (fun t r => t.setReg r.1 r.2) s

/-- `batch` with some bytes of memory set. -/
def withBytes (bytes : List (Nat × Byte)) (s : State := batch) : State :=
  bytes.foldl (fun t b => t.store b.1 b.2) s

/-- What `f` sees after one step that runs the word `w`. -/
def after {α : Type} (w : Word) (s : State) (f : State → α) : Option α :=
  match step (s.withFetchWord 16 w.toNat) with
  | .next t => some (f t)
  | .fault _ => none
  | .refused _ => none

/-- What `f` sees after one step. -/
def stepped {α : Type} (s : State) (f : State → α) : Option α :=
  match step s with
  | .next t => some (f t)
  | .fault _ => none
  | .refused _ => none

/-- The core has halted with this record, PC at the halting instruction. -/
def haltedAs (cause : HaltCause) (pc : Word) (addr : BitVec 17) (s : State) : Bool :=
  decide (s.es = .halted) && decide (s.haltCause = cause) && decide (s.haltPc = pc) &&
    decide (s.haltAddr = addr) && decide (s.pc = pc)

/-- CF15: nothing but PC and the budget. -/
theorem test_sys : stepped (batch.withFetchWord 16 0x0123) id =
    some { batch.withFetchWord 16 0x0123 with pc := 0x202, budget := 2 } := by decide
/-- CF16. -/
theorem test_nop8 : after 0x8AB9 (withRegs [(0xA, 1), (0xB, 2), (0xF, 7)])
    (fun t => (t.pc, t.reg 0xA, t.reg 0xF)) = some (0x202, 1, 7) := by decide
theorem test_nope : after 0xE19F (withRegs [(1, 0x20)]) (fun t => (t.pc, t.es)) =
    some (0x202, .running) := by decide
theorem test_nopf : after 0xF1FF batch (fun t => (t.pc, t.v)) =
    some (0x202, batch.v) := by decide
/-- CF1. -/
theorem test_jp : after 0x1ABC batch State.pc = some 0xABC := by decide
/-- CF17. -/
theorem test_call : after 0x23FF batch (fun t => (t.pc, t.sp, t.stack[0])) =
    some (0x3FF, 1, 0x202) := by decide
/-- CF4. -/
theorem test_call_overflow : after 0x2400 { batch with sp := 16 }
    (fun t => (haltedAs .stackOverflow 0x200 16 t, t.sp)) =
    some (true, 16) := by decide
/-- CF6. -/
theorem test_ret : after 0x00EE { batch with sp := 3, stack := batch.stack.set 2 0x350 }
    (fun t => (t.pc, t.sp, t.stack[2])) = some (0x350, 2, 0x350) := by decide
/-- CF5. -/
theorem test_ret_underflow : after 0x00EE batch (fun t => (haltedAs .stackUnderflow 0x200 0 t, t.sp)) =
    some (true, 0) := by decide
/-- CF7. -/
theorem test_seqi : after 0x3310 (withRegs [(3, 0x10)]) State.pc = some 0x204 ∧
    after 0x3311 (withRegs [(3, 0x10)]) State.pc = some 0x202 := by decide
/-- CF8. -/
theorem test_snei : after 0x4310 (withRegs [(3, 0x10)]) State.pc = some 0x202 ∧
    after 0x4311 (withRegs [(3, 0x10)]) State.pc = some 0x204 := by decide
/-- CF9, CF10. -/
theorem test_seqr : after 0x5110 (withRegs [(1, 7)]) State.pc = some 0x204 ∧
    after 0x5121 (withRegs [(1, 7), (2, 7)]) State.pc = some 0x204 ∧
    after 0x5121 (withRegs [(1, 7), (2, 8)]) State.pc = some 0x202 := by decide
/-- CF11. -/
theorem test_sner : after 0x9110 (withRegs [(1, 7)]) State.pc = some 0x202 ∧
    after 0x912F (withRegs [(1, 7), (2, 8)]) State.pc = some 0x204 := by decide
/-- CF12, CF13. -/
theorem test_jpv0 : after 0xBF01 (withRegs [(0, 0xFF)]) State.pc = some 0x1000 ∧
    after 0xB200 (withRegs [(0, 0x10)]) State.pc = some 0x210 := by decide

/-- A1. -/
theorem test_movi : after 0x6F42 batch (fun t => t.reg 0xF) = some 0x42 := by decide
/-- E1, A2. -/
theorem test_addi : after 0x7402 (withRegs [(4, 0xFF), (0xF, 0x77)])
    (fun t => (t.reg 4, t.reg 0xF, t.pc)) = some (1, 0x77, 0x202) ∧
    after 0x7F01 (withRegs [(0xF, 0xFF)]) (fun t => t.reg 0xF) = some 0 := by decide
/-- A4. -/
theorem test_mov : after 0x8AB0 (withRegs [(0xB, 0x5A)]) (fun t => t.reg 0xA) = some 0x5A := by
  decide
/-- A6. -/
theorem test_or : after 0x8AB1 (withRegs [(0xA, 0xF0), (0xB, 0x0F), (0xF, 9)])
    (fun t => (t.reg 0xA, t.reg 0xF)) = some (0xFF, 9) := by decide
/-- A6. -/
theorem test_and : after 0x8AB2 (withRegs [(0xA, 0xF0), (0xB, 0x0F)])
    (fun t => t.reg 0xA) = some 0 := by decide
/-- A5. -/
theorem test_xor : after 0x8AA3 (withRegs [(0xA, 0x3C)]) (fun t => t.reg 0xA) = some 0 := by decide
/-- E2. -/
theorem test_add : after 0x8124 (withRegs [(1, 0xFF), (2, 1)])
    (fun t => (t.reg 1, t.reg 0xF)) = some (0, 1) ∧
    after 0x8124 (withRegs [(1, 0xFE), (2, 1), (0xF, 1)])
    (fun t => (t.reg 1, t.reg 0xF)) = some (0xFF, 0) := by decide
/-- A9, A10, A11. -/
theorem test_add_aliases : after 0x8AA4 (withRegs [(0xA, 0x81)])
    (fun t => (t.reg 0xA, t.reg 0xF)) = some (2, 1) ∧
    after 0x8FB4 (withRegs [(0xF, 1), (0xB, 0xFF)]) (fun t => t.reg 0xF) = some 1 ∧
    after 0x8AF4 (withRegs [(0xA, 1), (0xF, 0xFF)])
    (fun t => (t.reg 0xA, t.reg 0xF)) = some (0, 1) := by decide
/-- E3. -/
theorem test_sub : after 0x8125 (withRegs [(1, 5), (2, 5)])
    (fun t => (t.reg 1, t.reg 0xF)) = some (0, 1) ∧
    after 0x8125 (withRegs [(1, 4), (2, 5)])
    (fun t => (t.reg 1, t.reg 0xF)) = some (0xFF, 0) := by decide
/-- A14. -/
theorem test_sub_vf : after 0x8F15 (withRegs [(0xF, 2), (1, 3)]) (fun t => t.reg 0xF) = some 0 := by
  decide
/-- A17, A16. -/
theorem test_shr : after 0x8AB6 (withRegs [(0xA, 0xFF)])
    (fun t => (t.reg 0xA, t.reg 0xF)) = some (0x7F, 1) ∧
    after 0x8A06 (withRegs [(0xA, 0x80)])
    (fun t => (t.reg 0xA, t.reg 0xF)) = some (0x40, 0) := by decide
/-- A18, A19. -/
theorem test_shr_vf : after 0x8F06 (withRegs [(0xF, 3)]) (fun t => t.reg 0xF) = some 1 ∧
    after 0x8F06 (withRegs [(0xF, 2)]) (fun t => t.reg 0xF) = some 0 := by decide
/-- A20, A21, A22. -/
theorem test_subn : after 0x8AB7 (withRegs [(0xA, 3), (0xB, 5)])
    (fun t => (t.reg 0xA, t.reg 0xF)) = some (2, 1) ∧
    after 0x8AB7 (withRegs [(0xA, 5), (0xB, 3)])
    (fun t => (t.reg 0xA, t.reg 0xF)) = some (0xFE, 0) ∧
    after 0x8AB7 (withRegs [(0xA, 9), (0xB, 9)])
    (fun t => (t.reg 0xA, t.reg 0xF)) = some (0, 1) := by decide
/-- A23, A24, A25. -/
theorem test_shl : after 0x8A0E (withRegs [(0xA, 0x80)])
    (fun t => (t.reg 0xA, t.reg 0xF)) = some (0, 1) ∧
    after 0x8A0E (withRegs [(0xA, 0x7F)])
    (fun t => (t.reg 0xA, t.reg 0xF)) = some (0xFE, 0) ∧
    after 0x8F0E (withRegs [(0xF, 0x80)]) (fun t => t.reg 0xF) = some 1 := by decide
/-- A28: whatever the draw. -/
theorem test_rnd : ∃ t, exec (.rnd 3 0) batch = .next t ∧ t.reg 3 = 0 ∧ t.draws = 1 :=
  ⟨_, rfl, by simp [State.reg, State.setReg], rfl⟩

/-- M1. -/
theorem test_ldidx : after 0xAFFF batch State.i = some 0xFFF := by decide
/-- M2, M3, M6. -/
theorem test_addidx : after 0xFA1E { withRegs [(0xA, 1)] with i := 0xFFE }
    (fun t => (t.i, t.reg 0xF)) = some (0xFFF, 0) ∧
    after 0xFA1E { withRegs [(0xA, 1)] with i := 0xFFF }
    (fun t => (t.i, t.reg 0xF)) = some (0x1000, 1) ∧
    after 0xFA1E { batch with i := 0x1200 }
    (fun t => (t.i, t.reg 0xF)) = some (0x1200, 1) := by decide
/-- M4, M5. -/
theorem test_addidx_wraps : after 0xFA1E { withRegs [(0xA, 2)] with i := 0xFFFF }
    (fun t => (t.i, t.reg 0xF)) = some (1, 1) ∧
    after 0xFF1E { withRegs [(0xF, 5)] with i := 0x100 }
    (fun t => (t.i, t.reg 0xF)) = some (0x105, 0) := by decide
/-- M7. -/
theorem test_font : after 0xF029 (withRegs [(0, 0x0F)]) State.i = some 0x4B ∧
    after 0xF029 (withRegs [(0, 0xFF)]) State.i = some 0x4FB := by decide
/-- M9, M14. -/
theorem test_bcd : after 0xF033 { withRegs [(0, 0xFF)] with i := 0x300 }
    (fun t => (t.mem.read 0x300, t.mem.read 0x301, t.mem.read 0x302, t.i)) =
    some (2, 5, 5, 0x300) ∧
    after 0xF033 { withRegs [(0, 0x7B)] with i := 0x50 }
    (fun t => (t.mem.read 0x50, t.mem.read 0x51, t.mem.read 0x52)) = some (1, 2, 3) := by decide
/-- M12, M13. -/
theorem test_bcd_halts : after 0xF033 { withRegs [(0, 0x12)] with i := 0xFFE }
    (fun t => (haltedAs .memBounds 0x200 0x1000 t, t.mem.read 0xFFE, t.mem.read 0xFFF)) =
    some (true, 0, 0) ∧
    after 0xF033 { batch with i := 0x4E } (haltedAs .fontWrite 0x200 0x4E) =
    some true := by decide
/-- M15, M17. -/
theorem test_stregs : after 0xF055 { withRegs [(0, 0x11)] with i := 0x300 }
    (fun t => (t.mem.read 0x300, t.mem.read 0x301, t.i)) = some (0x11, 0, 0x301) ∧
    after 0xFF55 { withRegs [(0, 1), (0xF, 2)] with i := 0xFF0 }
    (fun t => (t.mem.read 0xFF0, t.mem.read 0xFFF, t.i)) = some (1, 2, 0x1000) := by decide
/-- M18, M19. -/
theorem test_stregs_halts : after 0xFF55 { withRegs [(0, 1)] with i := 0xFF1 }
    (fun t => (haltedAs .memBounds 0x200 0x1000 t, t.mem.read 0xFF1, t.i)) =
    some (true, 0, 0xFF1) ∧
    after 0xFF55 { batch with i := 0x40 } (haltedAs .fontWrite 0x200 0x40) =
    some true := by decide
/-- M22 with three bytes, and M21. -/
theorem test_ldregs : after 0xF265
    { withBytes [(0x300, 7), (0x301, 8), (0x302, 9), (0x303, 4)] with i := 0x300 }
    (fun t => (t.reg 0, t.reg 1, t.reg 2, t.reg 3, t.i)) = some (7, 8, 9, 0, 0x303) ∧
    after 0xF065 { batch with i := 0x1000 } (haltedAs .memBounds 0x200 0x1000) =
    some true := by decide
/-- M20, E8: with the reference font, V0 and V4 of glyph 0 and glyph B. -/
theorem test_reference_font (h : Config.FontIsReference) :
    State.reset.mem.read 0 = 0xF0 ∧ State.reset.mem.read 0x37 = 0xE0 := by
  have h0 := h 0 (by decide)
  have h1 := h 0x37 (by decide)
  simp only [Config.fontReference, List.cons_append, List.nil_append, List.getElem?_cons_succ,
    List.getElem?_cons_zero, Option.some.injEq] at h0 h1
  exact ⟨h0.symm, h1.symm⟩

/-- D1: DIRTY is set even on a clear screen. -/
theorem test_cls : after 0x00E0 { batch with fb := batch.fb.set 3 5 }
    (fun t => (t.fb, t.dirty)) = some (Framebuffer.blank, true) := by decide
/-- A state whose I points at one sprite row `b`. -/
def withSprite (b : Byte) (s : State := batch) : State :=
  { withBytes [(0x300, b)] s with i := 0x300 }

/-- D3 (the origin wraps), E6 (so do the columns past 63), D6 (VF as a coordinate is read before it
is written). -/
theorem test_drw_pixels : after 0xD011 (withRegs [(0, 0x46), (1, 0x28)] (withSprite 0x80))
    (fun t => (t.fb, t.reg 0xF)) = some (Framebuffer.blank.set 8 (BitVec.twoPow 64 6), 0) ∧
    after 0xD011 (withRegs [(0, 0x3C), (1, 5)] (withSprite 0xFF))
    (fun t => (t.fb[5], t.reg 0xF)) = some (0xF00000000000000F, 0) ∧
    after 0xDF11 (withRegs [(0xF, 1)] (withSprite 0x80))
    (fun t => (t.fb[0], t.reg 0xF)) = some (2, 0) := by decide
/-- D2 (no row), D4 (a collision), the same DRW on the screen that D4 leaves (assumption 19: VF = 0 by
the pseudocode of R158), and D5 (a halt). -/
theorem test_drw_flags : after 0xD010 (withRegs [(0xF, 1)])
    (fun t => (t.reg 0xF, t.dirty)) = some (0, false) ∧
    after 0xD011 { withSprite 0x80 with fb := Framebuffer.blank.set 0 1 }
    (fun t => (t.fb, t.reg 0xF)) = some (Framebuffer.blank, 1) ∧
    after 0xD011 { withSprite 0x80 with fb := Framebuffer.blank }
    (fun t => (t.fb, t.reg 0xF)) = some (Framebuffer.blank.set 0 1, 0) ∧
    after 0xD012 { withRegs [(0xF, 7)] with i := 0xFFF }
    (fun t => (haltedAs .memBounds 0x200 0x1000 t, t.reg 0xF, t.dirty)) =
    some (true, 7, false) := by decide

/-- K2, K1. -/
theorem test_skp : after 0xE09E { withRegs [(0, 0x0F)] with key := 0x8000 } State.pc = some 0x204 ∧
    after 0xE09E (withRegs [(0, 0x10)]) (haltedAs .keyRange 0x200 0x10) =
    some true := by decide
/-- K3, K4. -/
theorem test_sknp : after 0xE0A1 { withRegs [(0, 0x0F)] with key := 0x8000 } State.pc = some 0x202 ∧
    after 0xE0A1 (withRegs [(0, 2)]) State.pc = some 0x204 ∧
    after 0xE0A1 (withRegs [(0, 0xFF)]) (haltedAs .keyRange 0x200 0xFF) =
    some true := by decide
/-- K5. -/
theorem test_getdt : after 0xF507 { batch with dt := 0x2A } (fun t => t.reg 5) = some 0x2A := by
  decide
/-- K6. -/
theorem test_waitk_retries : after 0xF30A (withRegs [(3, 9)]) (fun t => (t.pc, t.reg 3)) =
    some (0x200, 9) := by decide
/-- P7: with one key pressed, that key, whatever the implementation's choice. -/
theorem test_waitk_takes_key : waitKeySelect 0x0020 = 5 := by
  have h := waitKeySelect_pressed (keys := 0x0020) (by decide)
  have all : ∀ k : Nibble, keyPressed 0x0020 k = true → k = 5 := by decide
  exact all _ h
/-- K8. -/
theorem test_setdt : after 0xF115 (withRegs [(1, 0x3C)]) State.dt = some 0x3C := by decide
/-- K9, its first half: TONE does not change. -/
theorem test_setst : after 0xF118 (withRegs [(1, 1)]) (fun t => (t.st, t.tone)) =
    some (1, false) := by decide

/-! ## The engine -/

/-- CF2, CF12, CF14: fetches out of bounds. -/
theorem test_fetch_bounds : stepped { batch with pc := 0xFFF } (haltedAs .fetchBounds 0xFFF 0xFFF) =
    some true ∧
    stepped { batch with pc := 0x1002 } (haltedAs .fetchBounds 0x1002 0x1002) =
    some true := by decide
/-- CF14: a skip at 0xFFE carries PC to 0x1002. -/
theorem test_fetch_last : after 0x3000 { batch with pc := 0xFFE } State.pc = some 0x1002 := by decide
/-- CF17: a fetch at an odd address. -/
theorem test_fetch_odd : stepped { withBytes [(0x3FF, 0x12), (0x400, 0x03)] with pc := 0x3FF }
    State.pc = some 0x203 := by decide
/-- K9, its second half: a sound timer of 1 never sounds. -/
theorem test_frame_silent :
    stepped { batch with budget := 0, st := 1, inputs := [.poll 0 false true] }
    (fun t => (t.st, t.tone)) = some (0, false) := by decide
/-- K10, K11. -/
theorem test_frame_ticks :
    stepped { batch with budget := 0, st := 3, inputs := [.poll 0x20 false true] }
    (fun t => (t.st, t.dt, t.tone, t.key)) = some (2, 0, true, 0x20) := by decide
/-- K12. -/
theorem test_frame_halted :
    stepped { batch with budget := 0, es := .halted, dt := 5, inputs := [.poll 0 false true] }
    (fun t => (t.dt, t.tone, t.es)) = some (5, false, .halted) := by decide
/-- R183: QUIT comes before FRAME. -/
theorem test_quit_first :
    stepped { batch with budget := 0, st := 3, tone := true, inputs := [.poll 0 true true] }
    (fun t => (t.es, t.tone, t.st)) = some (.terminated, false, 3) := by decide
/-- P1: PRESENT once after the batch, then DIRTY = 0. -/
theorem test_present : stepped { batch with budget := 0, dirty := true }
    (fun t => (t.presents, t.dirty)) = some (1, false) := by decide
/-- P8: no PRESENT from a HALTED core (R194). -/
theorem test_halted_no_present : stepped { batch with budget := 0, es := .halted, dirty := true }
    (fun t => (t.presents, t.dirty)) = some (0, true) := by decide
/-- R221, R222: the bytes of P8 at 0x200. -/
theorem test_load : stepped { State.reset with inputs := [.load [0x00, 0xEE]] }
    (fun t => (t.es, t.mem.read 0x200, t.mem.read 0x201, t.pc, t.loadFailed)) =
    some (.running, 0x00, 0xEE, 0x200, false) := by decide
/-- R223. -/
theorem test_load_fail : stepped { State.reset with inputs := [.loadFail] }
    (fun t => (t.es, t.mem, t.loadFailed)) = some (.running, [], true) := by decide
/-- R221: a load outside RESET writes nothing. -/
theorem test_load_halted : stepped { batch with es := .halted, budget := 0, inputs := [.load [0x12]] }
    (fun t => (t.es, t.mem)) = some (.halted, []) := by decide
/-- R220: RESET restarts a HALTED core. -/
theorem test_reset : stepped
    { withRegs [(3, 9)] with es := .halted, budget := 0, haltCause := .fontWrite, inputs := [.reset] } id =
    some State.reset := by decide
/-- 10_state.md R33; 60_exceptions.md R181. -/
theorem test_codes : EngineState.terminated.code = 3 ∧ EngineState.halted.code = 2 ∧
    HaltCause.none.code = 0 ∧ HaltCause.keyRange.code = 6 ∧ HaltCause.memBounds.code = 4 := by
  decide
/-- The host's placed word is the first instruction after reset. -/
theorem test_first_instruction : after 0x7402 State.reset (fun t => (t.reg 4, t.pc)) =
    some (2, 0x202) := by decide

/-! ## Witnesses: the hypotheses of each statement can be met -/

/-- A batch state that runs the word `w` next. -/
def atWord (w : Word) (s : State := batch) : State := s.withFetchWord 16 w.toNat

theorem accessible_of (kind : Access) (base n : Nat)
    (h : base + n ≤ 0x1000 ∧ (kind = .write → 0x04F < base)) : Accessible kind base n := by
  intro a ha
  obtain ⟨h1, h2⟩ := ha
  exact ⟨by omega, fun hk => by have := h.2 hk; omega⟩

theorem firstFailure_of {kind : Access} {base n a : Nat} {cause : HaltCause}
    (ha : base ≤ a ∧ a < base + n)
    (hc : (a > 0xFFF ∧ cause = .memBounds) ∨ (kind = .write ∧ a ≤ 0x04F ∧ cause = .fontWrite))
    (hb : base < a → a ≤ 0x1000 ∧ (kind = .write → 0x04F < base)) :
    IsFirstFailure kind base n a cause := by
  refine ⟨ha, hc, fun b h1 h2 => ?_⟩
  have h := hb (by omega)
  exact ⟨by omega, fun hk => by have := h.2 hk; omega⟩

theorem fontIntact_reset : FontIntact State.reset := by
  intro a ha
  simp [State.reset, Memory.read, Memory.unlisted, ha]

/-- Both hypotheses of the round trip, on a catch-all row too. -/
theorem witness_DecodeOfEncodeIsIdentity :
    (Instr.nopf 0xFFF).wf = true ∧ (Instr.nop8 0x00F).wf = true ∧ (Instr.sys 0).wf = true := by decide

theorem witness_EveryWordIsOneInstruction :
    (Instr.seqr 1 2 1).wf = true ∧ encode (.seqr 1 2 1) = 0x5121 := by decide

/-- In a batch at the last address a fetch can take, with one unrecognised word of each kind. -/
theorem witness_UnrecognisedWordsAreNoOps :
    InBatch (atWord 0x0123 { batch with pc := 0xFFE }) ∧
    (atWord 0x0123 { batch with pc := 0xFFE }).pc.toNat = 0xFFE ∧
    Unrecognised ((atWord 0x0123 { batch with pc := 0xFFE }).mem.readWord 0xFFE) ∧
    Unrecognised 0x8ABF ∧ Unrecognised 0xE1A2 ∧ Unrecognised 0xF166 :=
  ⟨⟨by decide, by decide⟩, by decide, .inl (by decide), .inr (.inl (by decide)),
    .inr (.inr (.inl (by decide))), .inr (.inr (.inr (by decide)))⟩

/-- SP at both ends of the legal range. -/
theorem witness_CallPushesReturnAddress :
    batch.sp.val < 16 ∧ ({ batch with sp := 15 } : State).sp.val < 16 := by decide

theorem witness_ReturnPopsReturnAddress :
    ({ batch with sp := 1 } : State).sp.val > 0 ∧ ({ batch with sp := 16 } : State).sp.val > 0 := by
  decide

theorem witness_StackViolationsHalt :
    ({ batch with sp := 16 } : State).sp.val = 16 ∧ batch.sp.val = 0 := by decide

/-- A CALL from depth 15, the deepest legal. -/
theorem witness_CallThenReturnComesBack : ∃ s t u : State, s.sp.val = 15 ∧
    exec (.call 0x400) s = .next t ∧ u.sp = t.sp ∧ u.stack = t.stack :=
  ⟨{ batch with sp := 15 }, _, _, rfl, rfl, rfl, rfl⟩

/-- Three bytes at each end of the writable region. -/
theorem witness_BcdStoresDigits :
    (MemoryOk { batch with i := 0x50 } ∧
      Accessible .write ({ batch with i := 0x50 } : State).i.toNat 3) ∧
    (MemoryOk { batch with i := 0xFFD } ∧
      Accessible .write ({ batch with i := 0xFFD } : State).i.toNat 3) :=
  ⟨⟨rfl, accessible_of _ _ _ (by decide)⟩, ⟨rfl, accessible_of _ _ _ (by decide)⟩⟩

/-- One byte at the start of the writable region, sixteen at its end. -/
theorem witness_StregsStoresRegisters :
    (MemoryOk { batch with i := 0x50 } ∧
      Accessible .write ({ batch with i := 0x50 } : State).i.toNat ((0#4).toNat + 1)) ∧
    (MemoryOk { batch with i := 0xFF0 } ∧
      Accessible .write ({ batch with i := 0xFF0 } : State).i.toNat ((0xF#4).toNat + 1)) :=
  ⟨⟨rfl, accessible_of _ _ _ (by decide)⟩, ⟨rfl, accessible_of _ _ _ (by decide)⟩⟩

/-- The font may be read, and so may the last sixteen bytes. -/
theorem witness_LdregsLoadsRegisters :
    Accessible .read batch.i.toNat ((0#4).toNat + 1) ∧
    Accessible .read ({ batch with i := 0xFF0 } : State).i.toNat ((0xF#4).toNat + 1) :=
  ⟨accessible_of _ _ _ (by decide), accessible_of _ _ _ (by decide)⟩

/-- Each of the four clauses, at the edge of its region: the vectors M12, M13, M18, M21 and D5. -/
theorem witness_FailingAccessHalts :
    IsFirstFailure .write ({ batch with i := 0xFFE } : State).i.toNat 3 0x1000 .memBounds ∧
    IsFirstFailure .write ({ batch with i := 0x4E } : State).i.toNat 3 0x4E .fontWrite ∧
    IsFirstFailure .write ({ batch with i := 0xFF1 } : State).i.toNat ((0xF#4).toNat + 1)
      0x1000 .memBounds ∧
    IsFirstFailure .read ({ batch with i := 0x1000 } : State).i.toNat ((0#4).toNat + 1)
      0x1000 .memBounds ∧
    IsFirstFailure .read ({ batch with i := 0xFFF } : State).i.toNat (2#4).toNat
      0x1000 .memBounds :=
  ⟨firstFailure_of (by decide) (by decide) (by decide),
    firstFailure_of (by decide) (by decide) (by decide),
    firstFailure_of (by decide) (by decide) (by decide),
    firstFailure_of (by decide) (by decide) (by decide),
    firstFailure_of (by decide) (by decide) (by decide)⟩

theorem witness_StoredBytesAreFetchedBigEndian : ∃ s t : State, MemoryOk s ∧
    Accessible .write s.i.toNat ((1#4).toNat + 1) ∧ exec (.stregs 1) s = .next t ∧
    (0#4).toNat < (1#4).toNat ∧ (1#4).toNat = (0#4).toNat + 1 :=
  ⟨{ withRegs [(0, 0x12), (1, 0x34)] with i := 0xFFE }, _, rfl,
    accessible_of _ _ _ (by decide), rfl, by decide, by decide⟩

/-- The last digit, 0xF. -/
theorem witness_FontGlyphIsLoaded : ∃ s t : State, FontIntact s ∧ (s.reg 7).toNat = 0xF ∧
    exec (.font 7) s = .next t :=
  ⟨withRegs [(7, 0xF)] State.reset, _, fontIntact_reset, by decide, rfl⟩

/-- One row at the last address, and no row at an address that is not there. -/
theorem witness_DrwBlitsSprite :
    Accessible .read ({ batch with i := 0xFFF } : State).i.toNat (1#4).toNat ∧
    Accessible .read ({ batch with i := 0xFFFF } : State).i.toNat (0#4).toNat :=
  ⟨accessible_of _ _ _ (by decide), fun a ha => by
    obtain ⟨h1, h2⟩ := ha
    simp at h1 h2
    omega⟩

/-- Two DRWs of the sprite of vector E6, with nothing between them. -/
theorem witness_SecondDrwRestoresScreen : ∃ s t u : State,
    Accessible .read s.i.toNat (1#4).toNat ∧ exec (.drw 0 1 1) s = .next t ∧ u.fb = t.fb ∧
    u.i = s.i ∧ u.reg 0 = s.reg 0 ∧ u.reg 1 = s.reg 1 ∧
    (∀ r < (1#4).toNat, u.mem.read (s.i.toNat + r) = s.mem.read (s.i.toNat + r)) ∧
    ∀ col row, SpriteHits s 0 1 1 col row → s.fb.pixel col row = false :=
  ⟨withRegs [(0, 0x3C), (1, 5)] (withSprite 0xFF), _, _,
    accessible_of _ _ _ (by decide), rfl, rfl, by decide, by decide, by decide, fun r hr => by
      have h0 : r = 0 := by
        simp at hr
        omega
      subst h0
      decide, fun c r _ => Framebuffer.pixel_blank c r⟩

/-- Keys 0 and 0xF. -/
theorem witness_KeySkipsReadKeyState :
    (batch.reg 3).toNat ≤ 0xF ∧ ((withRegs [(3, 0x0F)]).reg 3).toNat = 0xF := by decide

theorem witness_KeyOutOfRangeHalts :
    ((withRegs [(3, 0x10)]).reg 3).toNat > 0xF ∧ ((withRegs [(3, 0xFF)]).reg 3).toNat > 0xF := by
  decide

/-- No key, and the last key alone. -/
theorem witness_WaitkTakesPressedKey :
    batch.key = 0 ∧ ({ batch with key := 0x8000 } : State).key ≠ 0 := by decide

/-- An instruction at the last address a fetch can take, and its outcome. -/
theorem witness_StepRunsDecodedInstruction : ∃ s t : State, ∃ i : Instr, InBatch s ∧
    s.pc.toNat = 0xFFE ∧ i.wf = true ∧
    decodeBytes [s.mem.read s.pc.toNat, s.mem.read (s.pc.toNat + 1)] = .ok (i, []) ∧
    exec i { s with pc := s.pc + 2#16 } = .next t :=
  ⟨atWord 0x7402 { batch with pc := 0xFFE }, _, .addi 4 2, by unfold InBatch; decide, by decide,
    by decide, by decide, rfl⟩

/-- PC just past the last address, and at its largest. -/
theorem witness_FetchOutOfBoundsHalts :
    (InBatch { batch with pc := 0xFFF } ∧ ({ batch with pc := 0xFFF } : State).pc.toNat > 0xFFE) ∧
    (InBatch { batch with pc := 0xFFFF } ∧
      ({ batch with pc := 0xFFFF } : State).pc.toNat > 0xFFE) := by
  unfold InBatch
  decide

/-- A RET on an empty stack. -/
theorem witness_HaltsArePrecise : ∃ s t : State, InBatch s ∧ step s = .next t ∧ t.es = .halted :=
  ⟨atWord 0x00EE, _, by unfold InBatch; decide, rfl, by decide⟩

theorem witness_InstructionCostsOneBudgetUnit : ∃ s t : State, InBatch s ∧ step s = .next t ∧
    t.es ≠ .halted :=
  ⟨atWord 0x7402, _, by unfold InBatch; decide, rfl, by decide⟩

/-- A batch of three instructions, and one that is over. -/
theorem witness_BatchRunsItsBudget :
    batch.es = .running ∧ batch.budget = 3 ∧
    ({ batch with budget := 0 } : State).es = .running := by decide

theorem witness_FrameEventStartsBatch :
    AtPoll { batch with budget := 0, inputs := [.poll 5 false true] } ∧
    ({ batch with budget := 0, inputs := [.poll 5 false true] } : State).inputs =
      .poll 5 false true :: [] := by
  unfold AtPoll
  decide

/-- QUIT with a FRAME, and a poll with neither. -/
theorem witness_PollSamplesKeysAndQuitsFirst :
    AtPoll { batch with budget := 0, inputs := [.poll 5 true true, .poll 6 false false] } ∧
    (true = true ∨ true = false) ∧
    AtPoll { batch with budget := 0, inputs := [.poll 6 false false] } ∧
    (false = true ∨ false = false) := by
  unfold AtPoll
  decide

theorem witness_DirtyBatchIsPresented : ∃ s : State, s.es = .running ∧ s.budget = 0 ∧
    s.dirty = true :=
  ⟨{ batch with budget := 0, dirty := true }, rfl, rfl, rfl⟩

theorem witness_HaltedAndTerminatedStandStill :
    (∃ s : State, s.es = .halted ∧ s.inputs = .poll 0 false true :: []) ∧
    (∃ s : State, s.es = .halted ∧ s.inputs = .poll 0 true false :: []) ∧
    (∃ s : State, s.es = .terminated ∧ s.inputs = .load [1] :: [] ∧ Input.load [1] ≠ .reset) ∧
    (∃ s : State, AtPoll s ∧ s.inputs = .load [1] :: []) ∧
    (∃ s : State, s.es = .halted ∧ s.inputs = .loadFail :: []) ∧
    (∃ s : State, s.es = .reset ∧ s.inputs = .poll 5 true true :: []) ∧
    (∃ s : State, AtPoll s ∧ s.inputs = []) ∧ (State.reset.es ≠ .running ∧ State.reset.inputs = []) :=
  ⟨⟨{ State.reset with es := .halted, inputs := [.poll 0 false true] }, rfl, rfl⟩,
    ⟨{ State.reset with es := .halted, inputs := [.poll 0 true false] }, rfl, rfl⟩,
    ⟨{ State.reset with es := .terminated, inputs := [.load [1]] }, rfl, rfl, by decide⟩,
    ⟨{ batch with budget := 0, inputs := [.load [1]] }, ⟨rfl, rfl, rfl⟩, rfl⟩,
    ⟨{ State.reset with es := .halted, inputs := [.loadFail] }, rfl, rfl⟩,
    ⟨{ State.reset with inputs := [.poll 5 true true] }, rfl, rfl⟩,
    ⟨{ batch with budget := 0 }, ⟨rfl, rfl, rfl⟩, rfl⟩, ⟨by decide, rfl⟩⟩

/-- RESET between two batches, and in the other engine states. -/
theorem witness_ResetEventRestoresResetValues :
    (∃ s : State, s.es = .running ∧ (s.es = .running → s.budget = 0 ∧ s.dirty = false) ∧
      s.inputs = .reset :: []) ∧
    (∃ s : State, s.es = .halted ∧ (s.es = .running → s.budget = 0 ∧ s.dirty = false) ∧
      s.inputs = .reset :: []) :=
  ⟨⟨{ withRegs [(3, 9)] with budget := 0, inputs := [.reset] }, rfl, fun _ => ⟨rfl, rfl⟩, rfl⟩,
    ⟨{ withRegs [(3, 9)] with es := .halted, dirty := true, inputs := [.reset] }, rfl,
      fun h => (by cases h), rfl⟩⟩

/-- The longest image and the empty one. -/
theorem witness_LoadPlacesImage :
    (∃ s : State, ∃ image : List Byte, s.es = .reset ∧ MemoryOk s ∧
      s.inputs = .load image :: [] ∧ image.length = 0xDFF) ∧
    (∃ s : State, s.es = .reset ∧ MemoryOk s ∧ s.inputs = .load [] :: []) :=
  ⟨⟨{ State.reset with inputs := [.load (List.replicate 0xDFF 0x12)] }, _, rfl, rfl, rfl,
      List.length_replicate⟩,
    ⟨{ State.reset with inputs := [.load []] }, rfl, rfl, rfl⟩⟩

/-- LOAD_FAIL, and an image one byte too long. -/
theorem witness_FailedLoadStartsEmpty :
    (∃ s : State, s.es = .reset ∧ s.inputs = .loadFail :: []) ∧
    (∃ s : State, ∃ image : List Byte, s.es = .reset ∧ s.inputs = .load image :: [] ∧
      image.length = 0xE00) :=
  ⟨⟨{ State.reset with inputs := [.loadFail] }, rfl, rfl⟩,
    ⟨{ State.reset with inputs := [.load (List.replicate 0xE00 0x12)] }, _, rfl, rfl,
      List.length_replicate⟩⟩

/-- The last instruction of a batch (`7402`, which writes no timer), with a FRAME to come. -/
def runStart (st : Byte) : State :=
  atWord 0x7402 { batch with budget := 1, dt := 3, st := st, inputs := [.poll 0 false true] }

/-- The state after one step. -/
def after1 (s : State) : State :=
  match step s with
  | .next t => t
  | .fault _ => s
  | .refused _ => s

/-- Two steps that make a run with one frame: an instruction outside `writers`, and a frame start. -/
theorem frameRun_two {writers : Instr → Prop} {s t u : State} {i : Instr} (hs : InBatch s)
    (hf : fetch s = some i) (hw : ¬ writers i) (h1 : step s = .next t) (h2 : StartsFrame t)
    (h3 : step t = .next u) : FrameRun writers 1 s u := by
  refine .between (fun h => hs.2 h.1.2.1) (fun h => hs.2 (h.1 hs.1).1) ?_ h1 (.frame h2 h3 (.here u))
  rintro ⟨-, j, hj, hwj⟩
  rw [hf, Option.some.injEq] at hj
  exact hw (hj ▸ hwj)

/-- One frame after the end of a batch: for DT, and for ST = 1, not above 1, and ST = 2, above it. -/
theorem witness_TimersDecayToZero :
    (∃ t, FrameRun (fun i => ∃ x, i = .setdt x) 1 (runStart 0) t) ∧
    (∃ t, FrameRun (fun i => ∃ x, i = .setst x) 1 (runStart 1) t ∧ t.es = .running) ∧
    (∃ t, FrameRun (fun i => ∃ x, i = .setst x) 1 (runStart 2) t ∧ t.es = .running) :=
  ⟨⟨after1 (after1 (runStart 0)), frameRun_two (i := .addi 4 2) (t := after1 (runStart 0))
      ⟨rfl, by decide⟩ (by decide) (by simp) rfl ⟨⟨rfl, rfl, rfl⟩, 0, [], rfl⟩ rfl⟩,
    ⟨after1 (after1 (runStart 1)), frameRun_two (i := .addi 4 2) (t := after1 (runStart 1))
      ⟨rfl, by decide⟩ (by decide) (by simp) rfl ⟨⟨rfl, rfl, rfl⟩, 0, [], rfl⟩ rfl, rfl⟩,
    ⟨after1 (after1 (runStart 2)), frameRun_two (i := .addi 4 2) (t := after1 (runStart 2))
      ⟨rfl, by decide⟩ (by decide) (by simp) rfl ⟨⟨rfl, rfl, rfl⟩, 0, [], rfl⟩ rfl, rfl⟩⟩

theorem witness_PlacedWordRunsNext : MemoryOk State.reset ∧ MemoryOk (withBytes [(0x300, 7)]) := by
  unfold MemoryOk
  decide

/-- A step that writes memory. -/
theorem witness_StepKeepsMemoryCanonical : ∃ s t : State, MemoryOk s ∧ step s = .next t ∧
    t.mem ≠ s.mem :=
  ⟨atWord 0xF055 { withRegs [(0, 0x11)] with i := 0x300 }, _, by unfold MemoryOk; decide, rfl,
    by decide⟩

theorem witness_StepKeepsFont : ∃ s t : State, FontIntact s ∧ step s = .next t ∧ t.mem = s.mem :=
  ⟨{ State.reset with inputs := [.poll 0 false true] }, _, fontIntact_reset, rfl, rfl⟩

/-- A skip at the last address: PC passes 0xFFE. -/
theorem witness_StepKeepsPcBound : ∃ s t : State, PcOk s ∧ step s = .next t ∧ t.pc = 0x1002 :=
  ⟨atWord 0x3000 { batch with pc := 0xFFE }, _, by unfold PcOk; decide, rfl, by decide⟩

/-- A step that halts. The budget is 1, and IPF is at least 1. -/
theorem witness_StepKeepsEngineConsistent : ∃ s t : State, EngineOk s ∧ step s = .next t ∧
    t.es = .halted :=
  ⟨atWord 0x00EE { batch with budget := 1 }, _,
    ⟨fun h => absurd rfl h, Nat.le_add_left 1 _, fun _ => ⟨rfl, rfl, rfl⟩, fun h => by cases h⟩,
    rfl, by decide⟩

/-- A step that stays in RESET, and one that enters it. -/
theorem witness_StepKeepsResetValuesInReset :
    (∃ t : State, ResetOk State.reset ∧ step State.reset = .next t ∧ t.es = .reset) ∧
    (∃ s t : State, ResetOk s ∧ step s = .next t ∧ s.es = .terminated ∧ t.es = .reset) :=
  ⟨⟨_, fun _ => rfl, rfl, rfl⟩,
    ⟨{ batch with es := .terminated, budget := 0, inputs := [.reset] }, _, fun h => (by cases h),
      rfl, rfl, rfl⟩⟩

/-- One instruction for each piece of state. -/
theorem witness_OnlyTheirInstructionsWrite :
    (∃ t, exec (.cls 0) { batch with fb := batch.fb.set 3 5 } = .next t ∧ t.fb ≠ batch.fb.set 3 5) ∧
    (∃ t, exec (.call 0x400) batch = .next t ∧ t.sp ≠ batch.sp ∧ t.stack ≠ batch.stack) ∧
    (∃ t, exec (.ldidx 1) batch = .next t ∧ t.i ≠ batch.i) ∧
    (∃ t, exec (.bcd 0) { withRegs [(0, 0x7B)] with i := 0x300 } = .next t ∧ t.mem ≠ []) ∧
    (∃ t, exec (.setdt 0) (withRegs [(0, 1)]) = .next t ∧ t.dt ≠ 0) ∧
    (∃ t, exec (.setst 0) (withRegs [(0, 1)]) = .next t ∧ t.st ≠ 0) ∧
    (∃ t, exec (.cls 0) batch = .next t ∧ t.dirty ≠ batch.dirty) ∧
    (∃ t, exec (.rnd 0 0) batch = .next t ∧ t.draws ≠ batch.draws) ∧
    (∃ t, exec (.movi 3 9) batch = .next t ∧ t.v ≠ batch.v) :=
  ⟨⟨_, rfl, by decide⟩, ⟨_, rfl, by decide, by decide⟩, ⟨_, rfl, by decide⟩, ⟨_, rfl, by decide⟩,
    ⟨_, rfl, by decide⟩, ⟨_, rfl, by decide⟩, ⟨_, rfl, by decide⟩, ⟨_, rfl, by decide⟩,
    ⟨_, rfl, by decide⟩⟩

/-- VF as a flag, and VF as data. -/
theorem witness_OnlyFlagSettersOrDataWriteVf :
    (∃ t, exec (.sub 1 2) batch = .next t ∧ t.reg 0xF#4 ≠ batch.reg 0xF#4) ∧
    (∃ t, exec (.movi 0xF 0x42) batch = .next t ∧ t.reg 0xF#4 ≠ batch.reg 0xF#4) :=
  ⟨⟨_, rfl, by decide⟩, ⟨_, rfl, by decide⟩⟩

end Sys2Proof.Tests
end

section
/-!
The invariants every step keeps, and which instructions write which part of the state
(spec/10_state.md). Two inversion lemmas carry all of it: `exec_effect` says what an instruction can
do to the program's state, `step_move` what a step can do; each invariant is then a case analysis
over their constructors.
-/

namespace Sys2Proof.Machine

/-! ## What an instruction does -/

/-- The mnemonics whose only write besides PC is the data result to Vx (10_state.md R22). -/
def dataWriters : List String := ["MOVI", "ADDI", "MOV", "OR", "AND", "XOR", "GETDT", "WAITK"]

/-- The register operations that write the result to Vx and the flag to VF (41_alu.md R123). -/
def flagWriters : List String := ["ADD", "SUB", "SHR", "SUBN", "SHL"]

/-- What executing `i` on `s` can end in: one constructor for each set of parts that an instruction
writes, with the bounds on PC and on the bytes stored that the invariants rest on. -/
inductive ExecEffect : Instr → State → State → Prop where
  | halt {i s} (c : HaltCause) (a : Nat) : ExecEffect i s (s.raise c a)
  | move {i s} (w : Word)
      (hw : w.toNat ≤ 0x10FE ∨ w.toNat ≤ s.pc.toNat + 2 ∨ w = s.pc - 2#16) :
      ExecEffect i s (s.setPc w)
  | data {i s} (x : Nibble) (b : Byte) (hi : mnemonic i ∈ dataWriters)
      (hx : fieldX (encode i) = x) : ExecEffect i s (s.setReg x b)
  | flagged {i s} (x : Nibble) (b : Byte) (f : Bool) (hi : mnemonic i ∈ flagWriters) :
      ExecEffect i s (s.setRegFlag x b f)
  | rnd {s} (x : Nibble) (nn b : Byte) :
      ExecEffect (.rnd x nn) s { s.setReg x b with draws := s.draws + 1 }
  | index {i s} (w : Word) (hi : mnemonic i ∈ ["LDIDX", "FONT"]) : ExecEffect i s (s.setI w)
  | addidx {s} (x : Nibble) (w : Word) (f : Bool) :
      ExecEffect (.addidx x) s ((s.setI w).setFlag f)
  | bcd {s} (x : Nibble) (m : Memory)
      (hm : ∀ a < Config.fontEnd, m.read a = s.mem.read a) :
      ExecEffect (.bcd x) s { s with mem := m }
  | stregs {s} (x : Nibble) (m : Memory) (w : Word)
      (hm : ∀ a < Config.fontEnd, m.read a = s.mem.read a) :
      ExecEffect (.stregs x) s { s with mem := m, i := w }
  | ldregs {s} (x : Nibble) (w : Word) :
      ExecEffect (.ldregs x) s ((loadRegs s.i.toNat (x.toNat + 1) s).setI w)
  | call {s p} (nnn : Addr) (hp : s.push s.pc = some p) :
      ExecEffect (.call nnn) s (p.setPc (addrOperand nnn))
  | ret {s p} (ign : Nibble) (a : Word) (hp : s.pop = some (a, p)) :
      ExecEffect (.ret ign) s (p.setPc a)
  | cls {s} (ign : Nibble) :
      ExecEffect (.cls ign) s { s with fb := Framebuffer.blank, dirty := true }
  | drw {s} (x y n : Nibble) (fb : Framebuffer) (d f : Bool) :
      ExecEffect (.drw x y n) s (State.setFlag { s with fb := fb, dirty := d } f)
  | setdt {s} (x : Nibble) (b : Byte) : ExecEffect (.setdt x) s { s with dt := b }
  | setst {s} (x : Nibble) (b : Byte) : ExecEffect (.setst x) s { s with st := b }

/-- Leaving PC where fetch's advance put it. -/
theorem ExecEffect.stay (i : Instr) (s : State) : ExecEffect i s s :=
  .move s.pc (.inr (.inl (Nat.le_add_right ..)))

theorem ExecEffect.skipIf (i : Instr) (s : State) (c : Bool) : ExecEffect i s (s.skipIf c) := by
  rw [State.skipIf_eq]
  refine .move _ (.inr (.inl ?_))
  cases c
  · simp
  · simp only [State.skipIf_pc, if_true, BitVec.toNat_add, BitVec.toNat_ofNat]
    omega

/-- A guarded instruction halts, or has its effect with every address accessible. -/
theorem ExecEffect.guarded {i : Instr} {kind : Access} {n : Nat} {s done : State}
    (h : Accessible kind s.i.toNat n → ExecEffect i s done) :
    ExecEffect i s (guarded kind n s done) := by
  obtain ⟨hf, hg⟩ | ⟨c, a, -, hg⟩ := guarded_cases kind n s done <;> rw [hg]
  · exact h fun b hb => firstFailure_none.mp hf b hb.1 hb.2
  · exact .halt c a

theorem addrOperand_le (nnn : Addr) : (addrOperand nnn).toNat ≤ 0xFFF := by
  simp only [addrOperand, BitVec.toNat_setWidth]
  omega

/-- The computed jump reaches at most 0xFF + 0xFFF (10_state.md R25; 40_control_flow.md R109). -/
theorem byteAsWord_add_addrOperand_le (b : Byte) (nnn : Addr) :
    (byteAsWord b + addrOperand nnn).toNat ≤ 0x10FE := by
  have := addrOperand_le nnn
  simp only [byteAsWord, BitVec.toNat_add, BitVec.toNat_setWidth]
  omega

/-- Stores at accessible addresses do not reach the font region (20_memory.md R53; D7). -/
theorem not_span_of_accessible_write {base n a : Nat} (h : Accessible .write base n)
    (ha : a < Config.fontEnd) : ¬ span base n a := fun hs => by
  have := (h a hs).2 rfl
  simp only [Config.fontEnd] at ha
  omega

theorem execBcd_effect (x : Nibble) (s : State) (d : Byte × Byte × Byte) :
    ExecEffect (.bcd x) s (guarded .write 3 s
      (((s.store (s.indexed 0) d.1).store (s.indexed 1) d.2.1).store (s.indexed 2) d.2.2)) := by
  refine .guarded fun hacc => .bcd x _ fun a ha => ?_
  have hout := not_span_of_accessible_write hacc ha
  simp only [span] at hout
  simp only [State.indexed, State.store_mem]
  rw [Memory.read_write_ne _ _ (by omega), Memory.read_write_ne _ _ (by omega),
    Memory.read_write_ne _ _ (by omega)]

theorem execStregs_effect (x : Nibble) (s : State) (w : Word) :
    ExecEffect (.stregs x) s (guarded .write (x.toNat + 1) s
      ((storeRegs s.i.toNat (x.toNat + 1) s).setI w)) := by
  refine .guarded fun hacc => ?_
  rw [storeRegs_eq]
  exact .stregs x _ w fun a ha => storeRegs_outside _ _ s (not_span_of_accessible_write hacc ha)

/-- Whatever an instruction ends in is one of the effects. -/
theorem exec_effect {i : Instr} {s t : State} (h : exec i s = .next t) : ExecEffect i s t := by
  cases i
  case call nnn =>
    simp only [exec, execCall] at h
    split at h <;> cases h
    · exact .call nnn ‹_›
    · exact .halt _ _
  case ret ign =>
    simp only [exec, execRet] at h
    split at h <;> cases h
    · exact .ret ign _ ‹_›
    · exact .halt _ _
  case skp x | sknp x =>
    simp only [exec, execSkp, execSknp] at h
    split at h <;> cases h
    · exact .skipIf _ s _
    · exact .halt _ _
  case waitk x =>
    simp only [exec, execWaitk] at h
    split at h <;> cases h
    · exact .move _ (.inr (.inr rfl))
    · exact .data x _ (by simp [mnemonic, dataWriters]) (by simp [encode])
  all_goals cases h
  case bcd x => exact execBcd_effect x s _
  case stregs x => exact execStregs_effect x s _
  case ldregs x => exact .guarded fun _ => .ldregs x _
  case drw x y n => exact .guarded fun _ => .drw x y n _ _ _
  case cls ign => exact .cls ign
  case rnd x nn => exact .rnd x nn _
  case addidx x => exact .addidx x _ _
  case setdt x => exact .setdt x _
  case setst x => exact .setst x _
  case jp nnn => exact .move _ (.inl ((addrOperand_le nnn).trans (by decide)))
  case jpv0 nnn => exact .move _ (.inl (byteAsWord_add_addrOperand_le _ nnn))
  case sys ign | nop8 ign | nope ign | nopf ign => exact .stay _ s
  case seqi x nn | snei x nn | seqr x y ign | sner x y ign => exact .skipIf _ s _
  case ldidx nnn | font x => exact .index _ (by simp [mnemonic])
  case movi x nn | addi x nn | mov x y | or x y | and x y | xor x y | getdt x =>
    exact .data x _ (by simp [mnemonic, dataWriters]) (by simp [encode])
  case add x y | sub x y | shr x ign | subn x y | shl x ign =>
    exact .flagged x _ _ (by simp [mnemonic, flagWriters])

/-- An instruction halts with a cause, or leaves the engine's own fields alone. -/
theorem exec_halts_or_sameEngine {i : Instr} {s t : State} (h : exec i s = .next t) :
    (∃ c a, c ≠ .none ∧ t = s.raise c a) ∨ SameEngine s t := by
  obtain ⟨t', ht', he⟩ := exec_ends i s
  cases ht'.symm.trans h
  exact he.imp_left fun ⟨c, a, hc, _, ht⟩ => ⟨c, a, hc, ht⟩

/-! ## What a step does -/

/-- What the engine can do outside a batch (60_exceptions.md R184, R186, R190;
70_reset_and_hazards.md R220). -/
inductive EngineMove (s : State) : State → Prop where
  /-- No input has arrived. -/
  | wait : EngineMove s s
  /-- An input with no meaning in this engine state is used up. -/
  | ignore : EngineMove s s.takeInput
  | reset : EngineMove s s.takeInput.resetSequence
  /-- LOAD or LOAD_FAIL: memory below the program region stays. -/
  | start (m : Memory) (failed : Bool) (hes : s.es = .reset)
      (hm : ∀ a < Config.programBase, m.read a = s.mem.read a) :
      EngineMove s { s.takeInput with mem := m, loadFailed := failed, es := .running }
  | present (hes : s.es = .running) : EngineMove s s.present
  | sample (keys : Keys) (hes : s.es = .running) : EngineMove s { s.takeInput with key := keys }
  | frame (keys : Keys) (hes : s.es = .running) :
      EngineMove s (State.beginFrame { s.takeInput with key := keys })
  | quit (keys : Keys) (hes : s.es = .running ∨ s.es = .halted) :
      EngineMove s (State.terminate { s.takeInput with key := keys })

theorem failLoad_move {s : State} (hes : s.es = .reset) : EngineMove s s.takeInput.failLoad :=
  .start _ true hes fun a ha => by simp [Memory.read_clearFrom, ha]

theorem loadImage_move {s : State} (image : List Byte) (hes : s.es = .reset) :
    EngineMove s (s.takeInput.loadImage image) := by
  unfold State.loadImage
  split
  · refine .start _ false hes fun a ha => ?_
    rw [Memory.read_place_outside _ _ (.inl ha), Memory.read_clearFrom, if_pos ha]
    rfl
  · exact failLoad_move hes

theorem poll_move {s : State} (keys : Keys) (quit frame : Bool) (hes : s.es = .running) :
    EngineMove s (s.takeInput.poll keys quit frame) := by
  cases quit with
  | true => exact .quit keys (.inl hes)
  | false =>
    cases frame with
    | true => exact .frame keys hes
    | false => exact .sample keys hes

theorem awaitLoad_move {s : State} (hes : s.es = .reset) : EngineMove s (awaitLoad s) := by
  unfold awaitLoad
  split
  · exact .wait
  · exact .reset
  · exact loadImage_move _ hes
  · exact failLoad_move hes
  · exact .ignore

theorem betweenBatches_move {s : State} (hes : s.es = .running) :
    EngineMove s (betweenBatches s) := by
  unfold betweenBatches
  split
  · exact .present hes
  · split
    · exact .wait
    · exact .reset
    · exact .ignore
    · exact .ignore
    · exact poll_move _ _ _ hes

theorem whileHalted_move {s : State} (hes : s.es = .halted) : EngineMove s (whileHalted s) := by
  unfold whileHalted
  split
  · exact .wait
  · exact .reset
  · exact .ignore
  · exact .ignore
  · split
    · exact .quit s.key (.inr hes)
    · exact .ignore

theorem whileTerminated_move (s : State) : EngineMove s (whileTerminated s) := by
  unfold whileTerminated
  split
  · exact .wait
  · exact .reset
  all_goals exact .ignore

theorem engine_move {s t : State} (hb : ¬ InBatch s) (h : step s = .next t) : EngineMove s t := by
  rw [step_outside_batch hb] at h
  cases hes : s.es <;> rw [hes] at h <;> cases h
  case reset => exact awaitLoad_move hes
  case running => exact betweenBatches_move hes
  case halted => exact whileHalted_move hes
  case terminated => exact whileTerminated_move s

/-- What a step can do: a transition of the engine, a failed fetch, or the instruction at PC. -/
inductive StepMove (s : State) : State → Prop where
  | engine {t} (hb : ¬ InBatch s) (h : EngineMove s t) : StepMove s t
  | fetchHalt (hb : InBatch s) : StepMove s (fetchHalt s)
  | instr {i t} (hb : InBatch s) (hpc : s.pc.toNat ≤ 0xFFE) (h : exec i s.advance = .next t) :
      StepMove s t.spend

theorem step_move {s t : State} (h : step s = .next t) : StepMove s t := by
  by_cases hb : InBatch s
  · obtain ⟨-, hs⟩ | ⟨hpc, u, hu, hs⟩ := step_in_batch hb <;> cases hs.symm.trans h
    · exact .fetchHalt hb
    · exact .instr hb hpc hu
  · exact .engine hb (engine_move hb h)

/-! ## The font region (conflict C9, decision D7) -/

/-- With no cell listed, memory holds its reset contents. -/
theorem fontIntact_of_mem_nil {s : State} (h : s.mem = []) : FontIntact s := fun a ha => by
  simp [h, Memory.read, Memory.unlisted, ha]

/-- A state whose font region reads as that of `s` holds FONT if `s` does. -/
theorem FontIntact.congr {s t : State} (hs : FontIntact s)
    (h : ∀ a < Config.fontEnd, t.mem.read a = s.mem.read a) : FontIntact t :=
  fun a ha => (h a ha).trans (hs a ha)

theorem ExecEffect.font_region {i : Instr} {s t : State} (h : ExecEffect i s t) :
    ∀ a < Config.fontEnd, t.mem.read a = s.mem.read a := by
  cases h with
  | bcd x m hm => exact hm
  | stregs x m w hm => exact hm
  | ldregs x w => rw [loadRegs_eq]; simp
  | call nnn hp => rw [(State.push_some hp).2.2.2]; simp
  | ret ign a hp => rw [(State.pop_some hp).2.2.2]; simp
  | _ => simp

theorem EngineMove.fontIntact {s t : State} (h : EngineMove s t) (hs : FontIntact s) :
    FontIntact t := by
  cases h with
  | reset => exact fontIntact_of_mem_nil rfl
  | start m failed hes hm =>
    exact hs.congr fun a ha => hm a (ha.trans (by decide))
  | _ => exact hs

/-- Settles O53: a store never reaches the font region, a load starts above it, and RESET restores
it. -/
theorem stepKeepsFont : Obligations.StepKeepsFont := by
  intro s t hs h
  cases step_move h with
  | engine hb hm => exact hm.fontIntact hs
  | fetchHalt hb => exact hs
  | instr hb hpc hx => exact hs.congr (exec_effect hx).font_region

/-! ## PC and the return addresses (10_state.md R25) -/

theorem pcOk_resetSequence (s : State) : PcOk s.resetSequence :=
  ⟨by simp [State.resetSequence, State.reset], fun k => by
    simp [State.resetSequence, State.reset]⟩

/-- An instruction fetched at or below 0xFFE keeps the bounds: `s` is the advanced state. -/
theorem ExecEffect.pcOk {i : Instr} {s t : State} (h : ExecEffect i s t)
    (hlo : 2 ≤ s.pc.toNat) (hpc : s.pc.toNat ≤ 0x1000)
    (hst : ∀ k : Fin 16, s.stack[k.val].toNat ≤ 0x1000) : PcOk t := by
  have hback : (s.pc - 2#16).toNat ≤ 0x10FE := by
    rw [BitVec.toNat_sub_of_le (by simpa [BitVec.le_def] using hlo)]
    omega
  have hstay : s.pc.toNat ≤ 0x10FE := hpc.trans (by decide)
  cases h with
  | halt c a => exact ⟨hback, hst⟩
  | move w hw =>
    refine ⟨?_, hst⟩
    obtain hw | hw | rfl := hw
    · exact hw
    · exact hw.trans (by omega)
    · exact hback
  | ldregs x w => rw [loadRegs_eq]; exact ⟨hstay, hst⟩
  | call nnn hp =>
    obtain ⟨-, -, hpush, -⟩ := State.push_some hp
    refine ⟨(addrOperand_le nnn).trans (by decide), fun k => ?_⟩
    rw [State.setPc_stack, hpush k]
    split
    · exact hpc
    · exact hst k
  | ret ign a hp =>
    obtain ⟨hsp, -, hpop, hp'⟩ := State.pop_some hp
    have hlt := s.sp.isLt
    have ha := hpop ⟨s.sp.val - 1, by omega⟩ rfl
    rw [hp', ha]
    exact ⟨(hst _).trans (by decide), hst⟩
  | _ => exact ⟨hstay, hst⟩

theorem EngineMove.pcOk {s t : State} (h : EngineMove s t) (hs : PcOk s) : PcOk t := by
  cases h with
  | reset => exact pcOk_resetSequence _
  | _ => exact hs

/-- Settles O54: fetch stops above 0xFFE, so an executing instruction's PC is at most 0x1000, and
JPV0 adds at most 0xFF to a 12-bit address. -/
theorem stepKeepsPcBound : Obligations.StepKeepsPcBound := by
  intro s t hs h
  cases step_move h with
  | engine hb hm => exact hm.pcOk hs
  | fetchHalt hb => exact hs
  | instr hb hpc hx =>
    have hadv : s.advance.pc.toNat = s.pc.toNat + 2 := by
      rw [State.advance_pc, BitVec.toNat_add_of_lt (by simp; omega)]
      rfl
    exact (exec_effect hx).pcOk (by omega) (by omega) hs.2

/-! ## The engine's own fields (10_state.md R34, R35; 60_exceptions.md R180, R195) -/

/-- The halt entry (60_exceptions.md R180) meets the invariant whatever went before. -/
theorem engineOk_haltAt (s : State) (pc0 : Word) {c : HaltCause} (a : Nat) (hc : c ≠ .none) :
    EngineOk (s.haltAt pc0 c a) where
  idle _ := ⟨rfl, rfl⟩
  budget := Nat.zero_le _
  clear h := by simp at h
  halted _ := ⟨hc, rfl⟩

theorem engineOk_resetSequence (s : State) : EngineOk s.resetSequence where
  idle _ := ⟨rfl, rfl⟩
  budget := Nat.zero_le _
  clear _ := ⟨rfl, rfl, rfl⟩
  halted h := nomatch h

/-- While RUNNING the invariant asks only that BUDGET is at most IPF and the halt record clear. -/
theorem engineOk_of_running {t : State} (hes : t.es = .running) (hb : t.budget ≤ Config.ipf)
    (hclear : t.haltCause = .none ∧ t.haltPc = 0 ∧ t.haltAddr = 0) : EngineOk t where
  idle h := absurd hes h
  budget := hb
  clear _ := hclear
  halted h := nomatch hes.symm.trans h

theorem EngineMove.engineOk {s t : State} (hb : ¬ InBatch s) (h : EngineMove s t)
    (hs : EngineOk s) : EngineOk t := by
  obtain ⟨hidle, hbudget, hclear, hhalted⟩ := hs
  cases h with
  | wait | ignore => exact ⟨hidle, hbudget, hclear, hhalted⟩
  | reset => exact engineOk_resetSequence _
  | start m failed hes hm => exact engineOk_of_running rfl hbudget (hclear (.inl hes))
  | present hes | sample keys hes =>
    exact engineOk_of_running hes hbudget (hclear (.inr hes))
  | frame keys hes => exact engineOk_of_running hes (Nat.le_refl _) (hclear (.inr hes))
  | quit keys hes =>
    have hzero : s.budget = 0 := by
      by_cases hrun : s.es = .running
      · by_contra hne
        exact hb ⟨hrun, hne⟩
      · exact (hidle hrun).2
    exact ⟨fun _ => ⟨rfl, hzero⟩, hbudget, fun h => by simp at h, fun h => nomatch h⟩

/-- An instruction that leaves the engine's own fields alone keeps the invariant in a batch. -/
theorem engineOk_of_sameEngine {s t : State} (hrun : s.es = .running) (hs : EngineOk s)
    (h : SameEngine s.advance t) : EngineOk t.spend := by
  refine engineOk_of_running (h.es.trans hrun) ?_ ?_
  · rw [State.spend_budget, h.budget]
    exact (Nat.sub_le ..).trans hs.budget
  · simpa [h.haltCause, h.haltPc, h.haltAddr] using hs.clear (.inr hrun)

/-- Settles O55: the halt entry and RESET establish the invariant; everything else moves within
RUNNING or leaves it with TONE and BUDGET at 0. -/
theorem stepKeepsEngineConsistent : Obligations.StepKeepsEngineConsistent := by
  intro s t hs h
  cases step_move h with
  | engine hb hm => exact hm.engineOk hb hs
  | fetchHalt hb => exact engineOk_haltAt _ _ _ (by decide)
  | instr hb hpc hx =>
    obtain ⟨c, a, hc, rfl⟩ | hsame := exec_halts_or_sameEngine hx
    · -- a halt leaves BUDGET at 0, where spending a unit keeps it (assumption 21)
      exact engineOk_haltAt _ _ a hc
    · exact engineOk_of_sameEngine hb.1 hs hsame

/-! ## The reset values (10_state.md R37) -/

theorem resetOk_of_es_ne {t : State} (h : t.es ≠ .reset) : ResetOk t := fun he => absurd he h

theorem EngineMove.resetOk {s t : State} (h : EngineMove s t) (hs : ResetOk s) : ResetOk t := by
  cases h with
  | wait => exact hs
  | ignore => exact fun hes => congrArg State.takeInput (hs hes)
  | reset => exact fun _ => rfl
  | start m failed hes hm => exact resetOk_of_es_ne (by simp)
  | present hes | sample keys hes | frame keys hes => exact resetOk_of_es_ne (by simp [hes])
  | quit keys hes => exact resetOk_of_es_ne (by simp)

/-- Settles O56: only RESET enters ES = RESET, and there only inputs are used up. -/
theorem stepKeepsResetValuesInReset : Obligations.StepKeepsResetValuesInReset := by
  intro s t hs h
  cases step_move h with
  | engine hb hm => exact hm.resetOk hs
  | fetchHalt hb => exact resetOk_of_es_ne (by simp [fetchHalt])
  | instr hb hpc hx =>
    obtain ⟨c, a, -, rfl⟩ | hsame := exec_halts_or_sameEngine hx
    · exact resetOk_of_es_ne (by simp)
    · exact resetOk_of_es_ne (by simp [hsame.es, hb.1])

/-- Settles O57: `State.reset` is its own reset sequence, the base case of each invariant. -/
theorem resetMeetsInvariants : Obligations.ResetMeetsInvariants :=
  ⟨rfl, fontIntact_of_mem_nil rfl, pcOk_resetSequence State.reset,
    engineOk_resetSequence State.reset, fun _ => rfl⟩

/-! ## The cost of an instruction (60_exceptions.md R188, R193) -/

/-- Settles O41: a halt is the only way an instruction touches the engine's own fields. -/
theorem instructionCostsOneBudgetUnit : Obligations.InstructionCostsOneBudgetUnit := by
  intro s t hb h hne
  cases step_move h with
  | engine hnb hm => exact absurd hb hnb
  | fetchHalt => exact absurd rfl hne
  | instr _ hpc hx =>
    obtain ⟨c, a, -, rfl⟩ | hsame := exec_halts_or_sameEngine hx
    · exact absurd rfl hne
    · obtain ⟨hes, hc, hp, ha, hbud, htone, hkey, hin, hps, hpd, hlf⟩ := hsame
      exact ⟨congrArg (· - 1) hbud, ⟨hes, hc, hp, ha, rfl, htone, hkey, hin, hps, hpd, hlf⟩⟩

/-! ## Who writes what (10_state.md R20-R31) -/

/-- Settles O58: each effect names the parts it writes. -/
theorem onlyTheirInstructionsWrite : Obligations.OnlyTheirInstructionsWrite := by
  intro i s t h
  cases exec_effect h with
  | data x b hi | flagged x b f hi | index w hi =>
    simp [dataWriters, flagWriters] at hi ⊢
    tauto
  | ldregs x w => rw [loadRegs_eq]; simp [mnemonic]
  | call nnn hp => rw [(State.push_some hp).2.2.2]; simp [mnemonic]
  | ret ign a hp => rw [(State.pop_some hp).2.2.2]; simp [mnemonic]
  | _ => simp [mnemonic]

/-- Settles O59: an effect that is not a flag-setter's writes Vx alone, or V0 to Vx. -/
theorem onlyFlagSettersOrDataWriteVf : Obligations.OnlyFlagSettersOrDataWriteVf := by
  intro i s t h hne
  cases exec_effect h with
  | data x b hi hx =>
    by_cases hvf : x = 0xF#4
    · refine .inr ⟨?_, hx.trans hvf⟩
      simp only [dataWriters, List.mem_cons] at hi ⊢
      tauto
    · exact absurd (s.reg_setReg_ne b (Ne.symm hvf)) hne
  | flagged x b f hi =>
    simp only [flagWriters, List.mem_cons] at hi ⊢
    tauto
  | rnd x nn b =>
    by_cases hvf : x = 0xF#4
    · exact .inr (by simp [mnemonic, encode, hvf])
    · exact absurd (s.reg_setReg_ne b (Ne.symm hvf)) hne
  | ldregs x w =>
    by_cases hvf : x = 0xF#4
    · exact .inr (by simp [mnemonic, encode, hvf])
    · have hlast : ¬ (0xF#4).toNat < x.toNat + 1 := by bv_omega
      refine absurd ?_ hne
      rw [State.reg_setI, loadRegs_reg (by omega), if_neg hlast]
  | addidx x w f => exact .inl (by simp [mnemonic])
  | drw x y n fb d f => exact .inl (by simp [mnemonic])
  | call nnn hp => exact absurd (by rw [(State.push_some hp).2.2.2]; rfl) hne
  | ret ign a hp => exact absurd (by rw [(State.pop_some hp).2.2.2]; rfl) hne
  | _ => exact absurd rfl hne

end Sys2Proof.Machine
end

section
/-!
Memory and the accesses through I (spec/20_memory.md): a failing access or fetch halts before it
has any effect, a store is seen by the fetch that covers it, and every step keeps memory canonical.
-/

namespace Sys2Proof.Machine

/-! ## Every step keeps the canonical form (assumption 13) -/

theorem MemoryOk.congr {s t : State} (hs : MemoryOk s) (h : t.mem = s.mem) : MemoryOk t :=
  (congrArg Memory.wf h).trans hs

/-- Accessible addresses lie in memory (20_memory.md R53, R57). -/
theorem Accessible.lt_memSize {kind : Access} {base n a : Nat} (h : Accessible kind base n)
    (ha : span base n a) : a < Config.memSize :=
  Nat.lt_succ_of_le (h a ha).1

theorem Accessible.end_le_memSize {kind : Access} {base n : Nat}
    (h : Accessible kind base (n + 1)) : base + (n + 1) ≤ Config.memSize :=
  h.lt_memSize ⟨Nat.le_add_right base n, Nat.lt_succ_self _⟩

/-- A guarded effect need keep the canonical form only where its addresses are accessible. -/
theorem guarded_memoryOk {kind : Access} {n : Nat} {s done : State} (hs : MemoryOk s)
    (hdone : Accessible kind s.i.toNat n → MemoryOk done) :
    MemoryOk (guarded kind n s done) := by
  obtain ⟨hf, hg⟩ | ⟨c, a, -, hg⟩ := guarded_cases kind n s done <;> rw [hg]
  · exact hdone fun b hb => firstFailure_none.mp hf b hb.1 hb.2
  · exact hs

theorem MemoryOk.store {s : State} {a : Nat} (hs : MemoryOk s) (ha : a < Config.memSize)
    (b : Byte) : MemoryOk (s.store a b) :=
  Memory.wf_write b hs ha

theorem exec_bcd_memoryOk {x : Nibble} {s t : State} (hs : MemoryOk s)
    (h : exec (.bcd x) s = .next t) : MemoryOk t := by
  cases h
  refine guarded_memoryOk hs fun hacc => ?_
  have hlt : ∀ k < 3, s.indexed k < Config.memSize := fun k hk =>
    hacc.lt_memSize ⟨Nat.le_add_right _ k, Nat.add_lt_add_left hk _⟩
  exact ((hs.store (hlt 0 (by decide)) _).store (hlt 1 (by decide)) _).store
    (hlt 2 (by decide)) _

theorem exec_stregs_memoryOk {x : Nibble} {s t : State} (hs : MemoryOk s)
    (h : exec (.stregs x) s = .next t) : MemoryOk t := by
  cases h
  exact guarded_memoryOk hs fun hacc => storeRegs_wf hs hacc.end_le_memSize

/-- Only BCD and STREGS write memory, by the list of its writers (O58). -/
theorem exec_memoryOk {i : Instr} {s t : State} (hs : MemoryOk s) (h : exec i s = .next t) :
    MemoryOk t := by
  obtain ⟨-, -, -, hwriters, -⟩ := onlyTheirInstructionsWrite i s t h
  by_cases hmem : t.mem = s.mem
  · exact hs.congr hmem
  · have hi := hwriters hmem
    cases i
    case bcd x => exact exec_bcd_memoryOk hs h
    case stregs x => exact exec_stregs_memoryOk hs h
    all_goals simp [mnemonic] at hi

theorem failLoad_memoryOk {s : State} (hs : MemoryOk s) : MemoryOk s.failLoad :=
  Memory.wf_clearFrom _ hs

/-- An image of at most MaxImage bytes ends inside memory (70_reset_and_hazards.md R222). -/
theorem loadImage_memoryOk {s : State} (image : List Byte) (hs : MemoryOk s) :
    MemoryOk (s.loadImage image) := by
  unfold State.loadImage
  split
  · next hlen =>
    refine Memory.wf_place (Memory.wf_clearFrom _ hs) ?_
    simp only [Config.maxImage, Config.programBase, Config.memSize] at hlen ⊢
    omega
  · exact failLoad_memoryOk hs

theorem awaitLoad_memoryOk {s : State} (hs : MemoryOk s) : MemoryOk (awaitLoad s) := by
  unfold awaitLoad
  split
  · exact hs
  · rfl
  · exact loadImage_memoryOk _ hs
  · exact failLoad_memoryOk hs
  · exact hs

/-- Only in ES = RESET does the engine write memory otherwise than by RESET. -/
theorem EngineMove.memoryOk {s t : State} (h : EngineMove s t) (hne : s.es ≠ .reset)
    (hs : MemoryOk s) : MemoryOk t := by
  cases h with
  | reset => rfl
  | start m failed hes hm => exact absurd hes hne
  | _ => exact hs

/-- Settles O52: stores are guarded by the access check, a load places no more than MaxImage bytes,
and RESET lists no cell. -/
theorem stepKeepsMemoryCanonical : Obligations.StepKeepsMemoryCanonical := by
  intro s t hs h
  cases step_move h with
  | engine hb hm =>
    by_cases hes : s.es = .reset
    · have ht : step s = .next (awaitLoad s) := by simp [step, hes]
      cases ht.symm.trans h
      exact awaitLoad_memoryOk hs
    · exact hm.memoryOk hes hs
  | fetchHalt hb => exact hs
  | instr hb hpc hx =>
    have hu := exec_memoryOk (s := s.advance) hs hx
    exact hu.congr rfl

/-! ## A failing access (20_memory.md R53; decisions D2, D6, D7) -/

theorem addressFault_some {kind : Access} {a : Nat} {c : HaltCause}
    (h : addressFault kind a = some c) :
    (a > 0xFFF ∧ c = .memBounds) ∨ (kind = .write ∧ a ≤ 0x04F ∧ c = .fontWrite) := by
  unfold addressFault at h
  split at h
  · next hbounds =>
    cases h
    exact .inl ⟨hbounds, rfl⟩
  · split at h
    · next hfont =>
      cases h
      exact .inr ⟨hfont.1, hfont.2, rfl⟩
    · cases h

theorem isFirstFailure_of_firstFailure {kind : Access} {base n a : Nat} {c : HaltCause}
    (h : firstFailure kind base n = some (c, a)) : IsFirstFailure kind base n a c := by
  obtain ⟨hlo, hhi, hfault, hbelow⟩ := firstFailure_some h
  exact ⟨⟨hlo, hhi⟩, addressFault_some hfault, fun b h1 h2 => addressFault_none.mp (hbelow b h1 h2)⟩

theorem accessible_or_isFirstFailure (kind : Access) (base n : Nat) :
    Accessible kind base n ∨ ∃ a cause, IsFirstFailure kind base n a cause := by
  cases h : firstFailure kind base n with
  | none => exact .inl fun b hb => firstFailure_none.mp h b hb.1 hb.2
  | some p => exact .inr ⟨p.2, p.1, isFirstFailure_of_firstFailure h⟩

/-- A guarded instruction with a first failing address has the halt as its only effect. -/
theorem guarded_haltedBy {kind : Access} {n a : Nat} {c : HaltCause} {s done : State}
    (hn : n ≤ 16) (h : IsFirstFailure kind s.i.toNat n a c) :
    HaltedBy s (guarded kind n s done) (s.pc - 2#16) c a := by
  rw [guarded_fail h]
  obtain ⟨⟨-, hlt⟩, -⟩ := h
  exact s.raise_haltedBy c (indexed_lt s hn hlt)

/-- Settles O27: the check finds the lowest failing address, and each of the four forms is guarded
by it over at most 16 addresses. -/
theorem failingAccessHalts : Obligations.FailingAccessHalts :=
  ⟨accessible_or_isFirstFailure, fun _ x _ n _ _ =>
    have hx : x.toNat + 1 ≤ 16 := x.isLt
    ⟨fun h => ⟨_, rfl, guarded_haltedBy (by decide) h⟩,
      fun h => ⟨_, rfl, guarded_haltedBy hx h⟩,
      fun h => ⟨_, rfl, guarded_haltedBy hx h⟩,
      fun h => ⟨_, rfl, guarded_haltedBy n.isLt.le h⟩⟩⟩

/-! ## Stores and fetches (20_memory.md R52, R58, R64) -/

/-- Where LD [I], Vx may write, byte `k` of what it stores is Vk (42_index_memory.md R144). -/
theorem exec_stregs_read {x k : Nibble} {s t : State} (hs : MemoryOk s)
    (hacc : Accessible .write s.i.toNat (x.toNat + 1)) (h : exec (.stregs x) s = .next t)
    (hk : k.toNat ≤ x.toNat) : t.mem.read (s.i.toNat + k.toNat) = s.reg k := by
  cases h
  rw [guarded_pass hacc, State.setI_mem,
    storeRegs_inside hs hacc.end_le_memSize (Nat.lt_succ_of_le hk), BitVec.ofNat_toNat,
    BitVec.setWidth_eq]

/-- Settles O28: the two halves of the word are the two bytes stored at its addresses. -/
theorem storedBytesAreFetchedBigEndian : Obligations.StoredBytesAreFetchedBigEndian := by
  intro x k j s t hs hacc h hk hj
  have hhigh : t.mem.read (s.i.toNat + k.toNat) = s.reg k := exec_stregs_read hs hacc h hk.le
  have hlow : t.mem.read (s.i.toNat + j.toNat) = s.reg j :=
    exec_stregs_read hs hacc h (hj.trans_le hk)
  rw [hj, ← Nat.add_assoc] at hlow
  rw [Memory.readWord, hhigh, hlow]

/-! ## A failing fetch (20_memory.md R54; decision D4) -/

/-- Settles O38: PC fits the 17 bits of HALT_ADDR. -/
theorem fetchOutOfBoundsHalts : Obligations.FetchOutOfBoundsHalts := by
  intro s hb hpc
  obtain ⟨-, hstep⟩ | ⟨hle, -⟩ := step_in_batch hb
  · exact ⟨_, hstep, s.haltAt_haltedBy s.pc .fetchBounds (s.pc.isLt.trans (by decide))⟩
  · exact absurd hpc (Nat.not_lt.mpr hle)

end Sys2Proof.Machine
end

section
/-!
Encoding (spec/30_encoding.md): decoder and encoder are inverse to each other, the decoder picks the
first row of the opcode map, and neither an encoding nor a state is left without a next state.
-/

namespace Sys2Proof

/-! ## What the decoder answers -/

/-- What the decoder answers, one constructor for each primary selector (R84). -/
inductive ByPrimary (w : Word) : Instr → Prop where
  | system (hop : fieldOp w = 0x0#4) : ByPrimary w (decodeSystem w)
  | jp (hop : fieldOp w = 0x1#4) : ByPrimary w (.jp (fieldNNN w))
  | call (hop : fieldOp w = 0x2#4) : ByPrimary w (.call (fieldNNN w))
  | seqi (hop : fieldOp w = 0x3#4) : ByPrimary w (.seqi (fieldX w) (fieldNN w))
  | snei (hop : fieldOp w = 0x4#4) : ByPrimary w (.snei (fieldX w) (fieldNN w))
  | seqr (hop : fieldOp w = 0x5#4) : ByPrimary w (.seqr (fieldX w) (fieldY w) (fieldN w))
  | movi (hop : fieldOp w = 0x6#4) : ByPrimary w (.movi (fieldX w) (fieldNN w))
  | addi (hop : fieldOp w = 0x7#4) : ByPrimary w (.addi (fieldX w) (fieldNN w))
  | alu (hop : fieldOp w = 0x8#4) : ByPrimary w (decodeAlu w)
  | sner (hop : fieldOp w = 0x9#4) : ByPrimary w (.sner (fieldX w) (fieldY w) (fieldN w))
  | ldidx (hop : fieldOp w = 0xA#4) : ByPrimary w (.ldidx (fieldNNN w))
  | jpv0 (hop : fieldOp w = 0xB#4) : ByPrimary w (.jpv0 (fieldNNN w))
  | rnd (hop : fieldOp w = 0xC#4) : ByPrimary w (.rnd (fieldX w) (fieldNN w))
  | drw (hop : fieldOp w = 0xD#4) : ByPrimary w (.drw (fieldX w) (fieldY w) (fieldN w))
  | key (hop : fieldOp w = 0xE#4) : ByPrimary w (decodeKey w)
  | misc (hop : fieldOp w = 0xF#4) : ByPrimary w (decodeMisc w)

theorem decode_byPrimary (w : Word) : ByPrimary w (decode w) := by
  unfold decode
  generalize hop : fieldOp w = op
  fin_cases op
  exacts [.system hop, .jp hop, .call hop, .seqi hop, .snei hop, .seqr hop, .movi hop, .addi hop,
    .alu hop, .sner hop, .ldidx hop, .jpv0 hop, .rnd hop, .drw hop, .key hop, .misc hop]

theorem decodeSystem_of_not_mem {w : Word} (h : fieldNN w ∉ systemSelectors) :
    decodeSystem w = .sys (fieldNNN w) := by
  simp_all [decodeSystem, systemSelectors]

theorem decodeAlu_of_not_mem {w : Word} (h : fieldN w ∉ aluSelectors) :
    decodeAlu w = .nop8 (fieldNNN w) := by
  simp_all [decodeAlu, aluSelectors]

theorem decodeKey_of_not_mem {w : Word} (h : fieldNN w ∉ keySelectors) :
    decodeKey w = .nope (fieldNNN w) := by
  simp_all [decodeKey, keySelectors]

theorem decodeMisc_of_not_mem {w : Word} (h : fieldNN w ∉ miscSelectors) :
    decodeMisc w = .nopf (fieldNNN w) := by
  simp_all [decodeMisc, miscSelectors]

/-! ## Decoding inverts encoding -/

/-- A catch-all row gives its instruction back because well-formedness keeps its selector off the
rows before it (R85-R88); every other row is selected by a constant that encoding wrote. -/
theorem decode_encode {i : Instr} (h : i.wf = true) : decode (encode i) = i := by
  cases i with
  | sys ign =>
    have hsel : ign.extractLsb' 0 8 ∉ systemSelectors := by simpa [Instr.wf] using h
    simp [encode, decode, decodeSystem_of_not_mem, hsel]
  | nop8 ign =>
    have hsel : ign.extractLsb' 0 4 ∉ aluSelectors := by simpa [Instr.wf] using h
    simp [encode, decode, decodeAlu_of_not_mem, hsel]
  | nope ign =>
    have hsel : ign.extractLsb' 0 8 ∉ keySelectors := by simpa [Instr.wf] using h
    simp [encode, decode, decodeKey_of_not_mem, hsel]
  | nopf ign =>
    have hsel : ign.extractLsb' 0 8 ∉ miscSelectors := by simpa [Instr.wf] using h
    simp [encode, decode, decodeMisc_of_not_mem, hsel]
  | cls ign | ret ign => simp [encode, decode, decodeSystem]
  | mov x y | or x y | and x y | xor x y | add x y | sub x y | shr x ign | subn x y | shl x ign =>
    simp [encode, decode, decodeAlu]
  | skp x | sknp x => simp [encode, decode, decodeKey]
  | getdt x | waitk x | setdt x | setst x | addidx x | font x | bcd x | stregs x | ldregs x =>
    simp [encode, decode, decodeMisc]
  | _ => simp [encode, decode]

/-- Settles O2: the fields of an encoded word are the operands that went into it. -/
theorem decodeOfEncodeIsIdentity : Obligations.DecodeOfEncodeIsIdentity :=
  fun _ h => decode_encode h

/-! ## Encoding inverts decoding -/

theorem wordByte_eq_of_fields {w : Word} {op : Nibble} {b : Byte} (hop : fieldOp w = op)
    (hb : fieldNN w = b) : wordByte op (fieldX w) b = w := by
  subst hop hb
  exact wordByte_fields w

theorem wordNibbles_eq_of_fields {w : Word} {op n : Nibble} (hop : fieldOp w = op)
    (hn : fieldN w = n) : wordNibbles op (fieldX w) (fieldY w) n = w := by
  subst hop hn
  exact wordNibbles_fields w

theorem wordAddr_eq_of_fields {w : Word} {op : Nibble} (hop : fieldOp w = op) :
    wordAddr op (fieldNNN w) = w := by
  subst hop
  exact wordAddr_fields w

/-- The instruction is well formed and the word is its word. -/
structure StandsFor (w : Word) (i : Instr) : Prop where
  wf : i.wf = true
  encode_eq : encode i = w

/-- One test of the decoder: it selects its row, or the rows after it go on. -/
theorem StandsFor.ite {w : Word} {c : Prop} [Decidable c] {i j : Instr} (hi : c → StandsFor w i)
    (hj : ¬ c → StandsFor w j) : StandsFor w (if c then i else j) :=
  iteInduction hi hj

/-- A selected row keeps the selector as a constant and the other fields as operands; a catch-all
row keeps all twelve bits, and has failed every selector of its primary. -/
theorem ByPrimary.standsFor {w : Word} {i : Instr} (h : ByPrimary w i) : StandsFor w i := by
  cases h with
  | system hop | key hop | misc hop =>
    simp only [decodeSystem, decodeKey, decodeMisc]
    repeat refine .ite (fun hsel => ⟨rfl, wordByte_eq_of_fields hop hsel⟩) fun _ => ?_
    refine ⟨?_, wordAddr_eq_of_fields hop⟩
    simp [Instr.wf, systemSelectors, keySelectors, miscSelectors, *]
  | alu hop =>
    unfold decodeAlu
    repeat refine .ite (fun hsel => ⟨rfl, wordNibbles_eq_of_fields hop hsel⟩) fun _ => ?_
    exact ⟨by simp [Instr.wf, aluSelectors, *], wordAddr_eq_of_fields hop⟩
  | jp hop | call hop | ldidx hop | jpv0 hop => exact ⟨rfl, wordAddr_eq_of_fields hop⟩
  | seqi hop | snei hop | movi hop | addi hop | rnd hop =>
    exact ⟨rfl, wordByte_eq_of_fields hop rfl⟩
  | seqr hop | sner hop | drw hop => exact ⟨rfl, wordNibbles_eq_of_fields hop rfl⟩

/-- Settles O3: the round trip from words gives existence, the one from instructions uniqueness. -/
theorem everyWordIsOneInstruction : Obligations.EveryWordIsOneInstruction := by
  intro w
  obtain ⟨hwf, henc⟩ := (decode_byPrimary w).standsFor
  refine ⟨hwf, henc, fun i hi he => ?_⟩
  rw [← he, decode_encode hi]

/-! ## The opcode map (R89, R90) -/

/-- A primary-only row of the map compares the primary with its own. -/
theorem rowMatches_primary {w v : Word} (m : String)
    (hv : v = wordNibbles (v.extractLsb' 12 4) 0#4 0#4 0#4) :
    rowMatches w ⟨m, v, 0xF000#16⟩ = decide (fieldOp w = v.extractLsb' 12 4) := by
  generalize v.extractLsb' 12 4 = op at hv ⊢
  subst hv
  exact Bool.eq_iff_iff.mpr (by rw [rowMatches, beq_iff_eq, mask_primary, decide_eq_true_iff])

/-- A byte-selected row of the map compares the primary and the low byte with its own. -/
theorem rowMatches_byte {w v : Word} (m : String)
    (hv : v = wordByte (v.extractLsb' 12 4) 0#4 (v.extractLsb' 0 8)) :
    rowMatches w ⟨m, v, 0xF0FF#16⟩ =
      (decide (fieldOp w = v.extractLsb' 12 4) && decide (fieldNN w = v.extractLsb' 0 8)) := by
  generalize v.extractLsb' 12 4 = op, v.extractLsb' 0 8 = b at hv ⊢
  subst hv
  rw [← Bool.decide_and]
  exact Bool.eq_iff_iff.mpr (by rw [rowMatches, beq_iff_eq, mask_byte, decide_eq_true_iff])

/-- A nibble-selected row of the map compares the primary and the low nibble with its own. -/
theorem rowMatches_nibble {w v : Word} (m : String)
    (hv : v = wordNibbles (v.extractLsb' 12 4) 0#4 0#4 (v.extractLsb' 0 4)) :
    rowMatches w ⟨m, v, 0xF00F#16⟩ =
      (decide (fieldOp w = v.extractLsb' 12 4) && decide (fieldN w = v.extractLsb' 0 4)) := by
  generalize v.extractLsb' 12 4 = op, v.extractLsb' 0 4 = n at hv ⊢
  subst hv
  rw [← Bool.decide_and]
  exact Bool.eq_iff_iff.mpr (by rw [rowMatches, beq_iff_eq, mask_nibble, decide_eq_true_iff])

theorem find?_rowMatches_cons (w : Word) (r : OpcodeRow) (rows : List OpcodeRow) :
    ((r :: rows).find? (rowMatches w)).map OpcodeRow.mnemonic =
      bif rowMatches w r then some r.mnemonic
      else (rows.find? (rowMatches w)).map OpcodeRow.mnemonic := by
  rw [List.find?_cons]
  cases rowMatches w r <;> rfl

theorem some_mnemonic_ite (c : Prop) [Decidable c] (i j : Instr) :
    some (mnemonic (if c then i else j)) =
      bif decide c then some (mnemonic i) else some (mnemonic j) := by
  rw [Bool.cond_decide]
  split <;> rfl

/-- The map is a chain of tests on the fields. With the primary known only its own rows are left of
it, and they test the selectors in the decoder's order. -/
theorem ByPrimary.firstRow_mnemonic {w : Word} {i : Instr} (h : ByPrimary w i) :
    (firstRow w).map OpcodeRow.mnemonic = some (mnemonic i) := by
  simp only [firstRow, opcodeMap, List.cons_append, List.nil_append, find?_rowMatches_cons]
  simp (disch := decide) only [rowMatches_primary, rowMatches_byte, rowMatches_nibble,
    BitVec.reduceExtractLsb']
  cases h with
  | system hop | alu hop | key hop | misc hop =>
    simp only [hop, BitVec.reduceEq, decide_true, decide_false, Bool.true_and, Bool.false_and,
      cond_true, cond_false, decodeSystem, decodeAlu, decodeKey, decodeMisc, some_mnemonic_ite]
    rfl
  | _ hop => simp [hop, mnemonic]

/-- Settles O4: both sides follow the same tests, primary by primary. -/
theorem decodeFollowsOpcodeMap : Obligations.DecodeFollowsOpcodeMap :=
  fun w => (decode_byPrimary w).firstRow_mnemonic

/-! ## No encoding and no state traps (R83, R91) -/

/-- Settles O39: an instruction halts or goes on, and both are next states; a step is such an
instruction, a failed fetch, or a transition of the engine. -/
theorem everyStepHasNextState : Obligations.EveryStepHasNextState := by
  refine ⟨fun i s => ?_, fun s => ?_⟩
  · obtain ⟨t, ht, -⟩ := Machine.exec_ends i s
    exact ⟨t, ht⟩
  · by_cases hb : Machine.InBatch s
    · obtain ⟨-, hs⟩ | ⟨-, t, -, hs⟩ := Machine.step_in_batch hb <;> exact ⟨_, hs⟩
    · exact ⟨_, Machine.step_outside_batch hb⟩

/-! ## Words of the spec -/

/-- Settles O1: eleven closed words, each decoded by computation. -/
theorem specWordsDecode : Obligations.SpecWordsDecode := by
  unfold Obligations.SpecWordsDecode
  decide

end Sys2Proof
end

section
/-!
Control flow and the no-op encodings (spec/40_control_flow.md): jumps and skips write PC alone, CALL
and RET move the return stack by one entry, and an unrecognised word costs its fetch and nothing
else.
-/

namespace Sys2Proof.Machine

/-! ## What control flow leaves unchanged -/

/-- PC, SP and the return stack are all that control flow writes; of them, those outside `parts`
have to keep their values. -/
theorem frame_of_pc_sp_stack {parts : List Part} {s : State} {w : Word} {p : Fin 17}
    {k : Vector Word 16} (hpc : .pc ∉ parts → w = s.pc) (hsp : .sp ∉ parts → p = s.sp)
    (hstack : .stack ∉ parts → k = s.stack) :
    Frame noReg noAddr parts s { s with pc := w, sp := p, stack := k } where
  reg _ _ := rfl
  mem _ _ := rfl
  i _ := rfl
  pc := hpc
  sp := hsp
  stack := hstack
  dt _ := rfl
  st _ := rfl
  fb _ := rfl
  dirty _ := rfl
  draws _ := rfl
  engine := by constructor <;> rfl

theorem State.setPc_frame (s : State) (w : Word) : Frame noReg noAddr [.pc] s (s.setPc w) :=
  frame_of_pc_sp_stack (by simp) (fun _ => rfl) (fun _ => rfl)

theorem State.skipIf_frame (s : State) (c : Bool) : Frame noReg noAddr [.pc] s (s.skipIf c) := by
  rw [State.skipIf_eq]
  exact s.setPc_frame _

/-! ## Jumps (R102, R109) -/

@[simp] theorem addrOperand_toNat (nnn : Addr) : (addrOperand nnn).toNat = nnn.toNat :=
  BitVec.toNat_setWidth_of_le (by decide)

@[simp] theorem byteAsWord_toNat (b : Byte) : (byteAsWord b).toNat = b.toNat :=
  BitVec.toNat_setWidth_of_le (by decide)

/-- A byte and a 12-bit address have their sum well below 2^16 (decision D26). -/
theorem byteAsWord_add_addrOperand_toNat (b : Byte) (nnn : Addr) :
    (byteAsWord b + addrOperand nnn).toNat = b.toNat + nnn.toNat := by
  have hsum : b.toNat + nnn.toNat < 2 ^ 16 := by omega
  rw [BitVec.toNat_add_of_lt (by simpa using hsum), byteAsWord_toNat, addrOperand_toNat]

/-- Settles O14: zero extension keeps the address. -/
theorem jumpGoesToAddress : Obligations.JumpGoesToAddress := fun nnn s =>
  ⟨decode_encode (i := .jp nnn) rfl, _, rfl, addrOperand_toNat nnn, s.setPc_frame _⟩

/-- Settles O20: the sum does not wrap. -/
theorem computedJumpAddsV0 : Obligations.ComputedJumpAddsV0 := fun nnn s =>
  ⟨decode_encode (i := .jpv0 nnn) rfl, _, rfl, byteAsWord_add_addrOperand_toNat _ nnn,
    s.setPc_frame _⟩

/-! ## Skips (R105-R108, R110) -/

/-- Settles O19: each skip is `State.skipIf` of its own test. -/
theorem skipsStepOverOneWord : Obligations.SkipsStepOverOneWord := fun x y ign nn s =>
  ⟨⟨decode_encode (i := .seqi x nn) rfl, decode_encode (i := .snei x nn) rfl,
      decode_encode (i := .seqr x y ign) rfl, decode_encode (i := .sner x y ign) rfl⟩,
    ⟨_, rfl, by simp, s.skipIf_frame _⟩, ⟨_, rfl, by simp, s.skipIf_frame _⟩,
    ⟨_, rfl, by simp, s.skipIf_frame _⟩, ⟨_, rfl, by simp, s.skipIf_frame _⟩⟩

/-! ## CALL and RET (R103, R104) -/

theorem exec_call_of_sp_lt {s : State} (nnn : Addr) (h : s.sp.val < 16) :
    ∃ p, s.push s.pc = some p ∧ exec (.call nnn) s = .next (p.setPc (addrOperand nnn)) := by
  cases hp : s.push s.pc with
  | none => exact absurd ((s.push_none _).mp hp) h.ne
  | some p => exact ⟨p, rfl, by simp [exec, execCall, hp]⟩

theorem exec_ret_of_sp_pos {s : State} (ign : Nibble) (h : 0 < s.sp.val) :
    ∃ a p, s.pop = some (a, p) ∧ exec (.ret ign) s = .next (p.setPc a) := by
  cases hp : s.pop with
  | none => exact absurd (s.pop_none.mp hp) h.ne'
  | some q => exact ⟨q.1, q.2, rfl, by simp [exec, execRet, hp]⟩

/-- Settles O15: below the limit CALL is a push of the advanced PC and a jump. -/
theorem callPushesReturnAddress : Obligations.CallPushesReturnAddress := by
  refine fun nnn s => ⟨decode_encode (i := .call nnn) rfl, fun hlt => ?_⟩
  obtain ⟨p, hp, hx⟩ := exec_call_of_sp_lt nnn hlt
  obtain ⟨-, hsp, hstack, heq⟩ := State.push_some hp
  refine ⟨_, hx, addrOperand_toNat nnn, hsp, hstack, ?_⟩
  rw [heq]
  exact frame_of_pc_sp_stack (by simp) (by simp) (by simp)

/-- Settles O16: on a stack that is not empty RET is a pop and a jump to what it gives. -/
theorem returnPopsReturnAddress : Obligations.ReturnPopsReturnAddress := by
  refine fun ign s => ⟨decode_encode (i := .ret ign) rfl, fun hpos => ?_⟩
  obtain ⟨a, p, hp, hx⟩ := exec_ret_of_sp_pos ign hpos
  obtain ⟨-, hsp, hentry, heq⟩ := State.pop_some hp
  refine ⟨_, hx, hsp, hentry, ?_⟩
  rw [heq]
  exact frame_of_pc_sp_stack (by simp) (by simp) (fun _ => rfl)

/-- Settles O18: RET reads the entry that CALL wrote, at the SP that CALL found (O15, O16). -/
theorem callThenReturnComesBack : Obligations.CallThenReturnComesBack := by
  intro nnn ign s t u hlt hcall hsp hstack
  obtain ⟨t', ht', -, hpushed, hentry, -⟩ := (callPushesReturnAddress nnn s).2 hlt
  cases ht'.symm.trans hcall
  have hdepth : u.sp.val = s.sp.val + 1 := by rw [hsp, hpushed]
  obtain ⟨r, hr, hpopped, hpc, -⟩ := (returnPopsReturnAddress ign u).2 (by omega)
  refine ⟨r, hr, ?_, Fin.ext (by omega)⟩
  calc r.pc = u.stack[s.sp.val] := hpc ⟨s.sp.val, hlt⟩ (by simp [hdepth])
    _ = t.stack[s.sp.val] := by rw [hstack]
    _ = s.pc := (hentry ⟨s.sp.val, hlt⟩).trans (if_pos rfl)

/-! ## Unrecognised words (R100, R101) -/

/-- A word of any of the four kinds decodes to the catch-all row of its primary (R85-R88), whose
meaning changes nothing. -/
theorem exec_of_unrecognised {w : Word} (h : Unrecognised w) (s : State) :
    exec (decode w) s = .next s := by
  obtain ⟨hop, hsel⟩ | ⟨hop, hsel⟩ | ⟨hop, hsel⟩ | ⟨hop, hsel⟩ := h
  · have hi : decode w = .sys (fieldNNN w) := by
      simp [decode, hop, decodeSystem_of_not_mem, systemSelectors, hsel]
    rw [hi]; rfl
  · have hout : ∀ n : Nibble, n ∈ [0x8#4, 0x9#4, 0xA#4, 0xB#4, 0xC#4, 0xD#4, 0xF#4] →
        n ∉ aluSelectors := by decide
    have hi : decode w = .nop8 (fieldNNN w) := by
      simp [decode, hop, decodeAlu_of_not_mem, hout _ hsel]
    rw [hi]; rfl
  · have hi : decode w = .nope (fieldNNN w) := by
      simp [decode, hop, decodeKey_of_not_mem, keySelectors, hsel]
    rw [hi]; rfl
  · have hi : decode w = .nopf (fieldNNN w) := by
      simp only [decode, hop]
      exact decodeMisc_of_not_mem hsel
    rw [hi]; rfl

/-- Settles O13: what is left of the step is fetch's advance and the unit of the budget. -/
theorem unrecognisedWordsAreNoOps : Obligations.UnrecognisedWordsAreNoOps := by
  refine ⟨fun _ _ => ⟨rfl, rfl, rfl, rfl⟩, fun s hb hpc hw => ?_⟩
  obtain ⟨hgt, -⟩ | ⟨-, t, ht, hstep⟩ := step_in_batch hb
  · exact absurd hgt (Nat.not_lt.mpr hpc)
  · cases (exec_of_unrecognised hw s.advance).symm.trans ht
    exact hstep

end Sys2Proof.Machine
end

section
/-!
ALU, register and random operations (spec/41_alu.md): each is a write of Vx, or of Vx and then VF,
so what is left of a statement is the arithmetic of its result and of its flag.
-/

namespace Sys2Proof.Machine

/-! ## What a register operation leaves unchanged -/

/-- The registers and the count of draws are all that these operations write. -/
theorem frame_of_v_draws {regs : Nibble → Prop} {parts : List Part} {s : State}
    {v : Vector Byte 16} {d : Nat} (hreg : ∀ r, ¬ regs r → State.reg { s with v := v } r = s.reg r)
    (hdraws : .draws ∉ parts → d = s.draws) :
    Frame regs noAddr parts s { s with v := v, draws := d } where
  reg := hreg
  mem _ _ := rfl
  i _ := rfl
  pc _ := rfl
  sp _ := rfl
  stack _ := rfl
  dt _ := rfl
  st _ := rfl
  fb _ := rfl
  dirty _ := rfl
  draws := hdraws
  engine := by constructor <;> rfl

theorem State.setReg_frame (s : State) (x : Nibble) (b : Byte) :
    Frame (· = x) noAddr [] s (s.setReg x b) :=
  frame_of_v_draws (fun _ => s.reg_setReg_ne b) fun _ => rfl

theorem State.setRegFlag_frame (s : State) (x : Nibble) (b : Byte) (f : Bool) :
    Frame (fun r => r = x ∨ r = 0xF#4) noAddr [] s (s.setRegFlag x b f) :=
  frame_of_v_draws (fun _ hr => s.reg_setRegFlag_ne b f (hr ∘ .inl) (hr ∘ .inr)) fun _ => rfl

/-! ## Data results without a flag (R121, R122, R124-R127) -/

/-- Settles O5: a write of Vx and nothing else. -/
theorem moviLoadsImmediate : Obligations.MoviLoadsImmediate := fun x nn s =>
  ⟨decode_encode (i := .movi x nn) rfl, _, rfl, s.reg_setReg_same x nn, s.setReg_frame x nn⟩

/-- Settles O6: the sum of two bytes is taken modulo 256. -/
theorem addiWrapsWithoutFlag : Obligations.AddiWrapsWithoutFlag := fun x nn s =>
  ⟨decode_encode (i := .addi x nn) rfl, _, rfl,
    by rw [State.reg_setReg_same, BitVec.toNat_add], s.setReg_frame x _⟩

/-- Settles O7: the operations on bytes act bit by bit. -/
theorem moveAndLogicResults : Obligations.MoveAndLogicResults := fun x y s =>
  ⟨⟨decode_encode (i := .mov x y) rfl, decode_encode (i := .or x y) rfl,
      decode_encode (i := .and x y) rfl, decode_encode (i := .xor x y) rfl⟩,
    ⟨_, rfl, s.reg_setReg_same x _, s.setReg_frame x _⟩,
    ⟨_, rfl, fun k => by rw [State.reg_setReg_same, BitVec.getLsbD_or], s.setReg_frame x _⟩,
    ⟨_, rfl, fun k => by rw [State.reg_setReg_same, BitVec.getLsbD_and], s.setReg_frame x _⟩,
    ⟨_, rfl, fun k => by rw [State.reg_setReg_same, BitVec.getLsbD_xor], s.setReg_frame x _⟩⟩

/-! ## The next draw (R134) -/

/-- Settles O12: the bits of a masked byte are the bits of the byte and of the mask. -/
theorem rndMasksFreshDraw : Obligations.RndMasksFreshDraw := by
  refine fun x nn s => ⟨decode_encode (i := .rnd x nn) rfl, _, rfl, fun k => ?_, rfl, ?_⟩
  · exact (congrArg (BitVec.getLsbD · k) (s.reg_setReg_same x _)).trans BitVec.getLsbD_and
  · exact frame_of_v_draws (fun _ => s.reg_setReg_ne _) (by simp)

/-! ## Results with a flag (R129-R133) -/

/-- The number of the data result, unless x = 15, and the condition of the flag say all that a
flag-setting operation does (10_state.md R23). -/
theorem State.setRegFlag_spec (s : State) (x : Nibble) {b : Byte} {f : Bool} {n : Nat} {p : Prop}
    [Decidable p] (hb : b.toNat = n) (hf : f = decide p) :
    (x ≠ 0xF#4 → ((s.setRegFlag x b f).reg x).toNat = n) ∧
      (s.setRegFlag x b f).reg 0xF#4 = (if p then 1#8 else 0#8) ∧
      Frame (fun r => r = x ∨ r = 0xF#4) noAddr [] s (s.setRegFlag x b f) := by
  refine ⟨fun hx => ?_, ?_, s.setRegFlag_frame x b f⟩
  · rw [s.reg_setRegFlag_same b f hx, hb]
  · simp [hf, flagByte]

/-- A difference of bytes, with the borrowed 256 on the side of the minuend. -/
theorem byte_sub_toNat (a b : Byte) : (a - b).toNat = (a.toNat + 256 - b.toNat) % 256 := by
  rw [BitVec.toNat_sub]
  omega

theorem byte_ushiftRight_one_toNat (a : Byte) : (a >>> 1).toNat = a.toNat / 2 := by
  rw [BitVec.toNat_ushiftRight, Nat.shiftRight_one]

theorem byte_shiftLeft_one_toNat (a : Byte) : (a <<< 1).toNat = a.toNat * 2 % 256 := by
  rw [BitVec.toNat_shiftLeft, Nat.shiftLeft_eq, Nat.pow_one]

theorem lowBit_eq_decide (a : Byte) : lowBit a = decide (a.toNat % 2 = 1) :=
  Nat.testBit_zero ..

theorem highBit_eq_decide (a : Byte) : highBit a = decide (a.toNat ≥ 128) :=
  (BitVec.msb_eq_getLsbD_last a).symm.trans (BitVec.msb_eq_decide a)

/-- Settles O8: the carry is decided from the sum before it is truncated. -/
theorem addSetsCarry : Obligations.AddSetsCarry := fun x y s =>
  ⟨decode_encode (i := .add x y) rfl, _, rfl, s.setRegFlag_spec x (BitVec.toNat_add ..) rfl⟩

/-- Settles O9: the flag compares the operands as numbers, before the difference wraps. -/
theorem subSetsNoBorrow : Obligations.SubSetsNoBorrow := fun x y s =>
  ⟨decode_encode (i := .sub x y) rfl, _, rfl, s.setRegFlag_spec x (byte_sub_toNat ..) rfl⟩

/-- Settles O10: SUB's argument with the operands exchanged. -/
theorem subnSetsNoBorrow : Obligations.SubnSetsNoBorrow := fun x y s =>
  ⟨decode_encode (i := .subn x y) rfl, _, rfl, s.setRegFlag_spec x (byte_sub_toNat ..) rfl⟩

/-- Settles O11: the bit shifted out is the parity of Vx, or its upper half. -/
theorem shiftsSetDroppedBit : Obligations.ShiftsSetDroppedBit := fun x y s =>
  ⟨⟨decode_encode (i := .shr x y) rfl, decode_encode (i := .shl x y) rfl⟩,
    ⟨_, rfl, s.setRegFlag_spec x (byte_ushiftRight_one_toNat _) (lowBit_eq_decide _)⟩,
    ⟨_, rfl, s.setRegFlag_spec x (byte_shiftLeft_one_toNat _) (highBit_eq_decide _)⟩⟩

end Sys2Proof.Machine
end

section
/-!
Index register and memory operations (spec/42_index_memory.md): three write I, and the transfers
through I move the registers, or the digits of one, to or from consecutive addresses that may be
accessed.
-/

namespace Sys2Proof.Machine

/-! ## What these operations leave unchanged -/

/-- The registers, memory and I are all that these operations write. -/
theorem frame_of_v_mem_i {regs : Nibble → Prop} {addrs : Nat → Prop} {parts : List Part}
    {s : State} {v : Vector Byte 16} {m : Memory} {w : Word}
    (hreg : ∀ r, ¬ regs r → State.reg { s with v := v } r = s.reg r)
    (hmem : ∀ a, ¬ addrs a → m.read a = s.mem.read a) (hi : .i ∉ parts → w = s.i) :
    Frame regs addrs parts s { s with v := v, mem := m, i := w } where
  reg := hreg
  mem := hmem
  i := hi
  pc _ := rfl
  sp _ := rfl
  stack _ := rfl
  dt _ := rfl
  st _ := rfl
  fb _ := rfl
  dirty _ := rfl
  draws _ := rfl
  engine := by constructor <;> rfl

theorem State.setI_frame (s : State) (w : Word) : Frame noReg noAddr [.i] s (s.setI w) :=
  frame_of_v_mem_i (fun _ _ => rfl) (fun _ _ => rfl) (by simp)

/-! ## Writes of I (R140-R142) -/

/-- A number below `2 ^ w` is kept by `w` bits. -/
theorem toNat_ofNat_of_lt {w n : Nat} (h : n < 2 ^ w) : (BitVec.ofNat w n).toNat = n :=
  (BitVec.toNat_ofNat n w).trans (Nat.mod_eq_of_lt h)

/-- Settles O21: zero extension keeps the address. -/
theorem ldidxSetsIndex : Obligations.LdidxSetsIndex := fun nnn s =>
  ⟨decode_encode (i := .ldidx nnn) rfl, _, rfl, addrOperand_toNat nnn, s.setI_frame _⟩

/-- Settles O22: I takes the sum modulo its width, and the flag is decided from the sum before it is
truncated. -/
theorem addidxSetsOverflow : Obligations.AddidxSetsOverflow := by
  refine fun x s => ⟨decode_encode (i := .addidx x) rfl, _, rfl, BitVec.toNat_ofNat .., ?_, ?_⟩
  · simp [flagByte, indexOverflow]
  · exact frame_of_v_mem_i (fun _ => State.reg_setFlag_ne _ _) (fun _ _ => rfl) (by simp)

/-- Settles O23: five times a byte is below 2^16. -/
theorem fontAddressIsFiveTimesDigit : Obligations.FontAddressIsFiveTimesDigit := fun x s =>
  ⟨decode_encode (i := .font x) rfl, _, rfl, toNat_ofNat_of_lt (by omega), s.setI_frame _⟩

/-! ## LD B, Vx (R143) -/

/-- Where its addresses are accessible a guarded instruction answers its effect. -/
theorem next_guarded_pass {kind : Access} {n : Nat} {s done : State}
    (h : Accessible kind s.i.toNat n) :
    (.next (guarded kind n s done) : Host.Outcome State Fault Refusal) = .next done :=
  congrArg _ (guarded_pass h)

/-- Three bytes written at consecutive addresses are read back, and no other address changes. -/
theorem Memory.read_write_three {m : Memory} (hm : m.wf = true) {a : Nat}
    (ha : a + 3 ≤ Config.memSize) (b₀ b₁ b₂ : Byte) :
    let w := ((m.write a b₀).write (a + 1) b₁).write (a + 2) b₂
    w.read a = b₀ ∧ w.read (a + 1) = b₁ ∧ w.read (a + 2) = b₂ ∧
      ∀ c, ¬ span a 3 c → w.read c = m.read c := by
  have hm₁ : (m.write a b₀).wf = true := Memory.wf_write _ hm (by omega)
  have hm₂ : ((m.write a b₀).write (a + 1) b₁).wf = true := Memory.wf_write _ hm₁ (by omega)
  refine ⟨?_, ?_, Memory.read_write_same hm₂ _ _, fun c hc => ?_⟩
  · rw [Memory.read_write_ne _ _ (by omega), Memory.read_write_ne _ _ (by omega),
      Memory.read_write_same hm]
  · rw [Memory.read_write_ne _ _ (by omega), Memory.read_write_same hm₁]
  · simp only [span] at hc
    rw [Memory.read_write_ne _ _ (by omega), Memory.read_write_ne _ _ (by omega),
      Memory.read_write_ne _ _ (by omega)]

/-- Each digit of a byte fits a byte. -/
theorem bcdDigits_toNat (b : Byte) :
    (bcdDigits b).1.toNat = b.toNat / 100 ∧ (bcdDigits b).2.1.toNat = b.toNat / 10 % 10 ∧
      (bcdDigits b).2.2.toNat = b.toNat % 10 :=
  ⟨toNat_ofNat_of_lt (by omega), toNat_ofNat_of_lt (by omega),
    toNat_ofNat_of_lt (by omega)⟩

/-- Settles O24: three writes of digits at I, I + 1 and I + 2. -/
theorem bcdStoresDigits : Obligations.BcdStoresDigits := by
  refine fun x s => ⟨decode_encode (i := .bcd x) rfl, fun hs hacc => ?_⟩
  obtain ⟨hundreds, tens, ones⟩ := bcdDigits_toNat (s.reg x)
  obtain ⟨h₀, h₁, h₂, hout⟩ := Memory.read_write_three hs
    hacc.end_le_memSize
    (bcdDigits (s.reg x)).1 (bcdDigits (s.reg x)).2.1 (bcdDigits (s.reg x)).2.2
  exact ⟨_, next_guarded_pass hacc, (congrArg BitVec.toNat h₀).trans hundreds,
    (congrArg BitVec.toNat h₁).trans tens, (congrArg BitVec.toNat h₂).trans ones,
    frame_of_v_mem_i (fun _ _ => rfl) hout fun _ => rfl⟩

/-! ## LD [I], Vx and LD Vx, [I] (R144, R145) -/

/-- Where I ends up after a transfer of `n + 1` bytes. -/
theorem ofNat_indexed_succ_toNat (s : State) (n : Nat) :
    (BitVec.ofNat 16 (s.indexed (n + 1))).toNat = (s.i.toNat + n + 1) % 65536 :=
  BitVec.toNat_ofNat ..

/-- Settles O25: the stores are `storeRegs`, which reaches the `x + 1` addresses from I and no
other. -/
theorem stregsStoresRegisters : Obligations.StregsStoresRegisters := by
  refine fun x s => ⟨decode_encode (i := .stregs x) rfl, fun hs hacc => ?_⟩
  have hx : exec (.stregs x) s = .next _ := next_guarded_pass hacc
  refine ⟨_, hx, fun k => exec_stregs_read hs hacc hx, ofNat_indexed_succ_toNat s _, ?_⟩
  rw [storeRegs_eq]
  exact frame_of_v_mem_i (fun _ _ => rfl) (fun _ => storeRegs_outside _ _ s) (by simp)

/-- Settles O26: the loads are `loadRegs`, which reads memory and writes V0 to Vx. -/
theorem ldregsLoadsRegisters : Obligations.LdregsLoadsRegisters := by
  refine fun x s => ⟨decode_encode (i := .ldregs x) rfl, fun hacc => ?_⟩
  have hreg := loadRegs_reg (base := s.i.toNat) (s := s) (Nat.succ_le_of_lt x.isLt)
  refine ⟨_, next_guarded_pass hacc, fun k hk => ?_,
    ofNat_indexed_succ_toNat s _, ?_⟩
  · rw [State.reg_setI, hreg, if_pos (Nat.lt_succ_of_le hk)]
  · rw [loadRegs_eq]
    refine frame_of_v_mem_i (fun r hr => ?_) (fun _ _ => rfl) (by simp)
    exact (hreg r).trans (if_neg (hr ∘ Nat.le_of_lt_succ))

/-! ## Loading a glyph (R142, R145) -/

/-- Settles O29: I is the glyph's address (O23), the load reads five bytes from there (O26), and for
a digit all five lie in the font region. -/
theorem fontGlyphIsLoaded : Obligations.FontGlyphIsLoaded := by
  intro x s t hfont hdigit h
  obtain ⟨-, t', ht', hi, hframe⟩ := fontAddressIsFiveTimesDigit x s
  cases ht'.symm.trans h
  have hacc : Accessible .read t.i.toNat 5 := fun a ha => by
    simp only [span, hi] at ha
    exact ⟨by omega, nofun⟩
  obtain ⟨u, hu, hload, -⟩ := (ldregsLoadsRegisters 4 t).2 hacc
  refine ⟨u, hu, fun k hk => ?_⟩
  have hregion : 5 * (s.reg x).toNat + k.toNat < Config.fontEnd := by
    simp only [Config.fontEnd]
    omega
  calc u.reg k = t.mem.read (t.i.toNat + k.toNat) := hload k (Nat.le_of_lt_succ hk)
    _ = s.mem.read (5 * (s.reg x).toNat + k.toNat) := by rw [hframe.mem _ id, hi]
    _ = Config.font (5 * (s.reg x).toNat + k.toNat) := hfont _ hregion

end Sys2Proof.Machine
end

section
/-!
Display operations (spec/43_display.md): the loops of R158 visit the sprite's pixels one after
another, no two of them on the same place of the screen, so that each pixel under the sprite is
inverted once and collisions are found against the framebuffer before the instruction.
-/

namespace Sys2Proof.Machine

/-! ## What display operations leave unchanged -/

/-- The registers, the framebuffer and DIRTY are all that the display operations write. -/
theorem frame_of_v_fb_dirty {regs : Nibble → Prop} {s : State} {v : Vector Byte 16}
    (fb : Framebuffer) (d : Bool)
    (hreg : ∀ r, ¬ regs r → State.reg { s with v := v } r = s.reg r) :
    Frame regs noAddr [.fb, .dirty] s { s with v := v, fb := fb, dirty := d } where
  reg := hreg
  mem _ _ := rfl
  i _ := rfl
  pc _ := rfl
  sp _ := rfl
  stack _ := rfl
  dt _ := rfl
  st _ := rfl
  fb h := absurd (by simp) h
  dirty h := absurd (by simp) h
  draws _ := rfl
  engine := by constructor <;> rfl

/-! ## CLS (R155) -/

/-- Settles O30: the framebuffer is the blank one and DIRTY is set whatever both were. -/
theorem clsClearsScreen : Obligations.ClsClearsScreen := fun ign _ =>
  ⟨decode_encode (i := .cls ign) rfl, _, rfl, Framebuffer.pixel_blank, rfl,
    frame_of_v_fb_dirty _ _ fun _ _ => rfl⟩

/-! ## What the loops of DRW carry (R158) -/

/-- `out` is what R158's loops carry after the pixels in `hits`, each once, on the screen `fb`. -/
structure Blits (fb : Framebuffer) (hits : Fin 64 → Fin 32 → Prop) (out : Blit) : Prop where
  pixel : ∀ col row, out.fb.pixel col row = true ↔ (fb.pixel col row = true ↔ ¬ hits col row)
  collide : out.collide = true ↔ ∃ col row, fb.pixel col row = true ∧ hits col row
  changed : out.changed = true ↔ ∃ col row, hits col row

theorem Blits.start (fb : Framebuffer) : Blits fb (fun _ _ => False) ⟨fb, false, false⟩ := by
  constructor <;> simp

theorem Blits.congr {fb : Framebuffer} {hits hits' : Fin 64 → Fin 32 → Prop} {out : Blit}
    (h : Blits fb hits out) (hh : ∀ col row, hits' col row ↔ hits col row) :
    Blits fb hits' out := by
  obtain rfl : hits' = hits := funext₂ fun col row => propext (hh col row)
  exact h

/-- A flip of a pixel not hit before adds it to the hits: there the screen still has its first
value, so the collision found is one with that. -/
theorem Blits.flip {fb : Framebuffer} {hits : Fin 64 → Fin 32 → Prop} {out : Blit}
    (h : Blits fb hits out) {c : Fin 64} {r : Fin 32} (hnew : ¬ hits c r) :
    Blits fb (fun col row => hits col row ∨ (col = c ∧ row = r))
      ⟨out.fb.flip c r, out.collide || out.fb.pixel c r, true⟩ where
  pixel col row := by
    have hold := h.pixel col row
    rw [Framebuffer.pixel_flip]
    by_cases hp : col = c ∧ row = r
    · obtain ⟨rfl, rfl⟩ := hp
      simpa [hnew] using not_congr hold
    · simpa [hp, ← Bool.decide_and] using hold
  collide := by
    have hold : out.fb.pixel c r = true ↔ fb.pixel c r = true := by simp [h.pixel, hnew]
    rw [Bool.or_eq_true, h.collide, hold]
    simp [and_or_left, exists_or]
  changed := by simpa using ⟨c, r, .inr ⟨rfl, rfl⟩⟩

/-! ## The order of the sprite's pixels (R156, R157) -/

/-- Pixel `j` of the sprite, eight to a row, is 1 and lands on FB[col][row]. -/
def SpriteDot (s : State) (x y : Nibble) (j : Nat) (col : Fin 64) (row : Fin 32) : Prop :=
  spriteBit (s.mem.read (s.i.toNat + j / 8)) (j % 8) = true ∧
    col = spriteCol (s.reg x) (j % 8) ∧ row = spriteRow (s.reg y) (j / 8)

/-- One of the first `k` pixels of the sprite is 1 and lands on FB[col][row]. -/
def SpriteDots (s : State) (x y : Nibble) (k : Nat) (col : Fin 64) (row : Fin 32) : Prop :=
  ∃ j < k, SpriteDot s x y j col row

theorem spriteDots_succ (s : State) (x y : Nibble) (k : Nat) (col : Fin 64) (row : Fin 32) :
    SpriteDots s x y (k + 1) col row ↔ SpriteDots s x y k col row ∨ SpriteDot s x y k col row :=
  Nat.exists_lt_succ_right

/-- No two pixels in 32 rows of 8 land on the same place of a screen of 32 rows of 64. -/
theorem SpriteDot.unique {s : State} {x y : Nibble} {j k : Nat} {col : Fin 64} {row : Fin 32}
    (hj : SpriteDot s x y j col row) (hk : SpriteDot s x y k col row) (hj' : j < 256)
    (hk' : k < 256) : j = k := by
  obtain ⟨-, hcj, hrj⟩ := hj
  obtain ⟨-, hck, hrk⟩ := hk
  have hcol := congrArg Fin.val (hcj.symm.trans hck)
  have hrow := congrArg Fin.val (hrj.symm.trans hrk)
  simp only [spriteCol, spriteRow, Fin.val_ofNat] at hcol hrow
  omega

/-- The hits of a sprite of `n` rows are those of its `8 * n` pixels. -/
theorem spriteHits_iff_dots (s : State) (x y n : Nibble) (col : Fin 64) (row : Fin 32) :
    SpriteHits s x y n col row ↔ SpriteDots s x y (8 * n.toNat) col row := by
  simp only [SpriteHits, SpriteDots, SpriteDot, spriteBit, spriteCol, spriteRow,
    Fin.ext_iff, Fin.val_ofNat]
  constructor
  · rintro ⟨r, c, hr, hc, hbit, hcol, hrow⟩
    have hdiv : (8 * r + c) / 8 = r := by omega
    have hmod : (8 * r + c) % 8 = c := by omega
    exact ⟨8 * r + c, by omega, by rw [hdiv, hmod]; exact ⟨hbit, hcol, hrow⟩⟩
  · rintro ⟨j, hj, hbit, hcol, hrow⟩
    exact ⟨j / 8, j % 8, by omega, by omega, hbit, hcol, hrow⟩

/-- The loop body adds pixel `k` of the sprite to the `k` before it. -/
theorem Blits.next_pixel {s : State} {x y : Nibble} {k : Nat} {out : Blit}
    (h : Blits s.fb (SpriteDots s x y k) out) (hk : k < 256) :
    Blits s.fb (SpriteDots s x y (k + 1))
      (blitPixel (s.reg x) (s.reg y) (s.mem.read (s.i.toNat + k / 8)) (k / 8) out (k % 8)) := by
  unfold blitPixel
  split
  · next hbit =>
    refine (h.flip ?_).congr fun col row => ?_
    · rintro ⟨j, hj, hdot⟩
      have := hdot.unique ⟨hbit, rfl, rfl⟩ (hj.trans hk) hk
      omega
    · rw [spriteDots_succ, SpriteDot, and_iff_right hbit]
  · next hbit =>
    refine h.congr fun col row => ?_
    rw [spriteDots_succ, or_iff_left fun hdot => hbit hdot.1]

/-- The inner loop up to column `c`: the pixels of row `r` are those from `8 * r` on. -/
theorem Blits.next_row {s : State} {x y : Nibble} {r : Nat} {out : Blit}
    (h : Blits s.fb (SpriteDots s x y (8 * r)) out) (hr : r < 32)
    {c : Nat} (hc : c ≤ 8) :
    Blits s.fb (SpriteDots s x y (8 * r + c))
      ((List.range c).foldl
        (blitPixel (s.reg x) (s.reg y) (s.mem.read (s.i.toNat + r)) r) out) := by
  induction c with
  | zero => exact h
  | succ c ih =>
    have hpixel := (ih (by omega)).next_pixel (by omega)
    have hdiv : (8 * r + c) / 8 = r := by omega
    have hmod : (8 * r + c) % 8 = c := by omega
    rw [hdiv, hmod] at hpixel
    rwa [List.range_succ, List.foldl_append]

/-- The outer loop: `n` rows of the sprite are its first `8 * n` pixels. -/
theorem blitRows_blits (s : State) (x y : Nibble) {n : Nat} (hn : n ≤ 32) :
    Blits s.fb (SpriteDots s x y (8 * n))
      (blitRows s.mem s.i.toNat (s.reg x) (s.reg y) n ⟨s.fb, false, false⟩) := by
  induction n with
  | zero => exact (Blits.start s.fb).congr (by simp [SpriteDots])
  | succ n ih => exact (ih (by omega)).next_row (by omega) le_rfl

/-- All of DRW's loops: the pixels under the sprite. -/
theorem blitRows_spriteHits (s : State) (x y n : Nibble) :
    Blits s.fb (SpriteHits s x y n)
      (blitRows s.mem s.i.toNat (s.reg x) (s.reg y) n.toNat ⟨s.fb, false, false⟩) :=
  (blitRows_blits s x y (by omega)).congr (spriteHits_iff_dots s x y n)

/-! ## DRW (R156-R158) -/

/-- Settles O31: what the loops carry goes to the framebuffer, VF and DIRTY. -/
theorem drwBlitsSprite : Obligations.DrwBlitsSprite := by
  refine fun x y n s => ⟨decode_encode (i := .drw x y n) rfl, fun hacc => ?_⟩
  have hblit := blitRows_spriteHits s x y n
  refine ⟨_, next_guarded_pass hacc, hblit.pixel, ?_, ?_,
    frame_of_v_fb_dirty _ _ fun _ => State.reg_setFlag_ne _ _⟩
  · rw [State.reg_setFlag_vf]
    by_cases hc : ∃ col row, s.fb.pixel col row = true ∧ SpriteHits s x y n col row
    · exact .inl ⟨by simp [flagByte, hblit.collide.mpr hc], hc⟩
    · refine .inr ⟨by simp [flagByte, mt hblit.collide.mp hc], fun col row hon hhit => ?_⟩
      exact hc ⟨col, row, hon, hhit⟩
  · simp [hblit.changed]

/-! ## Drawing twice (R159) -/

/-- VF after DRW (O31) as an equivalence. -/
theorem flag_eq_one_iff_exists {b : Byte} {p q : Fin 64 → Fin 32 → Prop}
    (h : (b = 1#8 ∧ ∃ col row, p col row ∧ q col row) ∨
      (b = 0#8 ∧ ∀ col row, p col row → ¬ q col row)) :
    b = 1#8 ↔ ∃ col row, p col row ∧ q col row := by
  obtain ⟨rfl, hex⟩ | ⟨rfl, hno⟩ := h
  · simpa using hex
  · simpa using hno

/-- Where a sprite lands depends on I, the coordinates and the sprite's bytes alone. -/
theorem spriteHits_congr {s u : State} {x y n : Nibble} (hi : u.i = s.i) (hx : u.reg x = s.reg x)
    (hy : u.reg y = s.reg y)
    (hm : ∀ r < n.toNat, u.mem.read (s.i.toNat + r) = s.mem.read (s.i.toNat + r)) :
    SpriteHits u x y n = SpriteHits s x y n := by
  funext col row
  simp only [SpriteHits, hi, hx, hy]
  refine propext (exists₂_congr fun r c => and_congr_right fun hr => ?_)
  rw [hm r hr]

/-- A sprite hits the screen exactly when one of its bytes has a 1. -/
theorem exists_spriteHits (s : State) (x y n : Nibble) :
    (∃ col row, SpriteHits s x y n col row) ↔
      ∃ r < n.toNat, s.mem.read (s.i.toNat + r) ≠ 0#8 := by
  constructor
  · rintro ⟨col, row, r, c, hr, -, hbit, -⟩
    exact ⟨r, hr, fun h0 => by simp [h0] at hbit⟩
  · rintro ⟨r, hr, hne⟩
    obtain ⟨k, hk, hbit⟩ : ∃ k < 8, (s.mem.read (s.i.toNat + r)).getLsbD k = true := by
      by_contra hall
      exact hne (BitVec.eq_of_getLsbD_eq fun k hk => by simpa using fun hb => hall ⟨k, hk, hb⟩)
    have hrev : 7 - (7 - k) = k := by omega
    exact ⟨spriteCol (s.reg x) (7 - k), spriteRow (s.reg y) r, r, 7 - k, hr, by omega,
      by rwa [hrev], rfl, rfl⟩

/-- Settles O32: O31 twice with the same hits. Inverting a pixel twice gives it back, and under the
sprite the screen between the two is the opposite of the one before. -/
theorem secondDrwRestoresScreen : Obligations.SecondDrwRestoresScreen := by
  intro x y n s t u hacc h hfb hi hx hy hm
  obtain ⟨t', ht', hfirst, -⟩ := (drwBlitsSprite x y n s).2 hacc
  cases ht'.symm.trans h
  obtain ⟨z, hz, hsecond, hflag, -⟩ := (drwBlitsSprite x y n u).2 (by rwa [hi])
  rw [spriteHits_congr hi hx hy hm, hfb] at hsecond hflag
  have hvf : z.reg 0xF#4 = 1#8 ↔
      ∃ col row, s.fb.pixel col row = false ∧ SpriteHits s x y n col row := by
    rw [flag_eq_one_iff_exists hflag]
    refine exists₂_congr fun col row => and_congr_left fun hhit => ?_
    simp [hfirst, hhit]
  refine ⟨z, hz, Framebuffer.ext_pixel fun col row => ?_, hvf, fun hoff => ?_⟩
  · rw [Bool.eq_iff_iff, hsecond, hfirst]
    tauto
  · rw [hvf, ← exists_spriteHits s x y n]
    exact exists₂_congr fun col row => and_iff_right_of_imp (hoff col row)

end Sys2Proof.Machine
end

section
/-!
Timer and key operations (spec/44_timers_keys.md): a key skip either finds the key that Vx names or
halts, LD Vx, K either goes back to itself or takes a key, and the timer moves write one byte.
-/

namespace Sys2Proof.Machine

/-! ## LD Vx, K (R168) -/

theorem exec_waitk_of_key_zero {s : State} (x : Nibble) (h : s.key = 0) :
    exec (.waitk x) s = .next (s.setPc (s.pc - 2#16)) :=
  if_pos h

theorem exec_waitk_of_key_ne_zero {s : State} (x : Nibble) (h : s.key ≠ 0) :
    exec (.waitk x) s = .next (s.setReg x ((waitKeySelect s.key).setWidth 8)) :=
  if_neg h

/-- Settles O36: the function is `waitKeySelect`, and zero extension keeps the key's number. -/
theorem waitkTakesPressedKey : Obligations.WaitkTakesPressedKey := by
  refine ⟨fun keys => (waitKeySelect keys).toNat,
    fun keys h => ⟨(waitKeySelect keys).isLt, waitKeySelect_pressed h⟩,
    fun x s => ⟨decode_encode (i := .waitk x) rfl, fun h => ?_, fun h => ?_⟩⟩
  · exact ⟨_, exec_waitk_of_key_zero x h, rfl, s.setPc_frame _⟩
  · refine ⟨_, exec_waitk_of_key_ne_zero x h, ?_, s.setReg_frame x _⟩
    rw [State.reg_setReg_same, BitVec.toNat_setWidth_of_le (by decide)]

/-! ## SKP and SKNP (R165, R166, R171) -/

theorem State.keyIndex_of_le {s : State} {x : Nibble} (h : (s.reg x).toNat ≤ 0xF) :
    ∃ k, s.keyIndex x = some k ∧ k.toNat = (s.reg x).toNat := by
  cases hk : s.keyIndex x with
  | none => exact absurd (State.keyIndex_none.mp hk) (Nat.not_lt.mpr h)
  | some k => exact ⟨k, rfl, (State.keyIndex_some hk).2⟩

/-- With Vx up to 0xF a key skip tests bit Vx of KEY. -/
theorem exec_keySkip_of_le {s : State} {x : Nibble} (h : (s.reg x).toNat ≤ 0xF) :
    exec (.skp x) s = .next (s.skipIf (s.key.getLsbD (s.reg x).toNat)) ∧
      exec (.sknp x) s = .next (s.skipIf (!s.key.getLsbD (s.reg x).toNat)) := by
  obtain ⟨k, hk, hnum⟩ := State.keyIndex_of_le h
  simp [exec, execSkp, execSknp, hk, keyPressed, hnum]

/-- With Vx above 0xF both key skips halt. -/
theorem exec_keySkip_of_gt {s : State} {x : Nibble} (h : (s.reg x).toNat > 0xF) :
    exec (.skp x) s = .next (s.raise .keyRange (s.reg x).toNat) ∧
      exec (.sknp x) s = .next (s.raise .keyRange (s.reg x).toNat) := by
  simp [exec, execSkp, execSknp, State.keyIndex_none.mpr h]

/-- Settles O33: each is `State.skipIf` of the key's level, or of its negation. -/
theorem keySkipsReadKeyState : Obligations.KeySkipsReadKeyState := by
  refine fun x s => ⟨⟨decode_encode (i := .skp x) rfl, decode_encode (i := .sknp x) rfl⟩,
    fun h => ?_⟩
  obtain ⟨hskp, hsknp⟩ := exec_keySkip_of_le h
  refine ⟨⟨_, hskp, s.skipIf_pc _, s.skipIf_frame _⟩, ⟨_, hsknp, ?_, s.skipIf_frame _⟩⟩
  rw [State.skipIf_pc]
  cases s.key.getLsbD (s.reg x).toNat <;> rfl

/-- Settles O34: Vx fits the 17 bits of HALT_ADDR. -/
theorem keyOutOfRangeHalts : Obligations.KeyOutOfRangeHalts := fun x s h =>
  have hhalt := s.raise_haltedBy .keyRange ((s.reg x).isLt.trans (by decide))
  have ⟨hskp, hsknp⟩ := exec_keySkip_of_gt h
  ⟨⟨_, hskp, hhalt⟩, ⟨_, hsknp, hhalt⟩⟩

/-! ## The timer moves (R167, R169, R170) -/

/-- DT and ST are all that LD DT, Vx and LD ST, Vx write; of them, those outside `parts` have to
keep their values. -/
theorem frame_of_dt_st {parts : List Part} {s : State} {d e : Byte}
    (hdt : .dt ∉ parts → d = s.dt) (hst : .st ∉ parts → e = s.st) :
    Frame noReg noAddr parts s { s with dt := d, st := e } where
  reg _ _ := rfl
  mem _ _ := rfl
  i _ := rfl
  pc _ := rfl
  sp _ := rfl
  stack _ := rfl
  dt := hdt
  st := hst
  fb _ := rfl
  dirty _ := rfl
  draws _ := rfl
  engine := by constructor <;> rfl

/-- Settles O35: one byte is copied, and no engine field is written, TONE among them. -/
theorem timerMoves : Obligations.TimerMoves := fun x s =>
  ⟨⟨decode_encode (i := .getdt x) rfl, decode_encode (i := .setdt x) rfl,
      decode_encode (i := .setst x) rfl⟩,
    ⟨_, rfl, s.reg_setReg_same x _, s.setReg_frame x _⟩,
    ⟨_, rfl, rfl, frame_of_dt_st (by simp) fun _ => rfl⟩,
    ⟨_, rfl, rfl, frame_of_dt_st (fun _ => rfl) (by simp)⟩⟩

end Sys2Proof.Machine
end

section
/-!
Batches, halts and the engine around them (spec/60_exceptions.md): what a step in a batch ends in,
how a batch comes to its end, what each turn of the engine does with an input, and how the timers
decay over any run.
-/

namespace Sys2Proof.Machine

/-! ## A step in a batch (R180, R188) -/

/-- A halt keeps its form when the step takes a unit off the budget, which is 0 already
(assumption 21). -/
theorem HaltedBy.spend {s t : State} {pc0 : Word} {c : HaltCause} {a : Nat}
    (h : HaltedBy s t pc0 c a) : HaltedBy s t.spend pc0 c a :=
  { h with budget := congrArg (· - 1) h.budget }

/-- The halt of an instruction that fetch has advanced past is at the instruction's own address. -/
theorem advance_raise_haltedBy (s : State) (c : HaltCause) {a : Nat} (ha : a < 2 ^ 17) :
    HaltedBy s (s.advance.raise c a) s.pc c a := by
  have h := s.advance.raise_haltedBy c ha
  rw [State.advance_pc, BitVec.add_sub_cancel] at h
  exact { h with }

/-- A step in a batch halts at the address it started from with nothing else done, or goes on in
RUNNING with one unit less. -/
theorem step_in_batch_ends {s : State} (hb : InBatch s) :
    ∃ t, step s = .next t ∧
      ((∃ c a, c ≠ .none ∧ HaltedBy s t s.pc c a) ∨
        (t.es = .running ∧ t.budget = s.budget - 1)) := by
  obtain ⟨-, hs⟩ | ⟨-, t, ht, hs⟩ := step_in_batch hb
  · exact ⟨_, hs, .inl ⟨.fetchBounds, s.pc.toNat, by decide,
      s.haltAt_haltedBy s.pc .fetchBounds (s.pc.isLt.trans (by decide))⟩⟩
  · obtain ⟨t', ht', hend⟩ := exec_ends (decode (s.mem.readWord s.pc.toNat)) s.advance
    cases ht'.symm.trans ht
    refine ⟨_, hs, ?_⟩
    obtain ⟨c, a, hc, ha, rfl⟩ | hsame := hend
    · exact .inl ⟨c, a, hc, (advance_raise_haltedBy s c ha).spend⟩
    · exact .inr ⟨hsame.es.trans hb.1, congrArg (· - 1) hsame.budget⟩

/-- Settles O40: a step in a batch that does not halt ends in RUNNING. -/
theorem haltsArePrecise : Obligations.HaltsArePrecise := by
  intro s t hb h hhalted
  obtain ⟨t', ht', hend⟩ := step_in_batch_ends hb
  cases ht'.symm.trans h
  obtain ⟨c, a, hc, hhalt⟩ | ⟨hrun, -⟩ := hend
  · exact ⟨c, a, hc, hhalt⟩
  · exact nomatch hrun.symm.trans hhalted

/-! ## A whole batch (R193) -/

/-- A run begins with its first step. -/
theorem run_succ {s t : State} (h : step s = .next t) (k : Nat) :
    Host.Core.run core (k + 1) s = Host.Core.run core k t := by
  have h' : core.step s = .next t := h
  simp only [Host.Core.run, h']

/-- Settles O42, by induction on the budget: each step of the batch halts or leaves a batch with one
unit less. -/
theorem batchRunsItsBudget : Obligations.BatchRunsItsBudget := by
  intro s hes
  induction hn : s.budget generalizing s with
  | zero => exact ⟨0, s, Nat.le_refl _, rfl, fun j hj => absurd hj (Nat.not_lt_zero j),
      .inl ⟨hes, hn, rfl⟩⟩
  | succ n ih =>
    obtain ⟨t, ht, ⟨c, a, -, hhalt⟩ | ⟨hrun, hbudget⟩⟩ :=
      step_in_batch_ends (s := s) ⟨hes, by simp [hn]⟩
    · refine ⟨1, t, Nat.le_add_left 1 n, run_succ ht 0, fun j hj => ?_,
        .inr ⟨hhalt.es, hhalt.budget⟩⟩
      obtain rfl : j = 0 := Nat.lt_one_iff.mp hj
      exact ⟨s, rfl, hes, hn⟩
    · obtain ⟨m, u, hm, hu, hbefore, hend⟩ := ih t hrun (by rw [hbudget, hn]; rfl)
      refine ⟨m + 1, u, Nat.succ_le_succ hm, (run_succ ht m).trans hu, fun j hj => ?_,
        hend.imp_left fun ⟨hue, hub, hmn⟩ => ⟨hue, hub, congrArg (· + 1) hmn⟩⟩
      cases j with
      | zero => exact ⟨s, rfl, hes, hn⟩
      | succ j =>
        obtain ⟨v, hv, hve, hvb⟩ := hbefore j (Nat.lt_of_succ_lt_succ hj)
        exact ⟨v, (run_succ ht j).trans hv, hve, by omega⟩

/-! ## The instruction at PC (R188; 20_memory.md R52) -/

/-- Settles O37: the two bytes at PC are the word that fetch reads. -/
theorem stepRunsDecodedInstruction : Obligations.StepRunsDecodedInstruction := by
  intro s i hb hpc _ hdec
  have hi : decode (s.mem.readWord s.pc.toNat) = i := by
    simpa [decodeBytes, wordOfBytes, Memory.readWord] using hdec
  obtain ⟨hgt, -⟩ | ⟨-, t, ht, hs⟩ := step_in_batch hb
  · exact absurd hgt (Nat.not_lt.mpr hpc)
  · rw [hi] at ht
    refine ⟨fun u hu => ?_, fun r hr => ?_, fun r hr => ?_⟩
    · cases ht.symm.trans hu
      exact hs
    · cases ht.symm.trans hr
    · cases ht.symm.trans hr

/-! ## The word the host places (assumption 4) -/

theorem highByte_append_lowByte (w : Word) : highByte w ++ lowByte w = w := by
  rw [highByte, lowByte, BitVec.extractLsb'_append_extractLsb'_eq_extractLsb' (by decide)]
  exact BitVec.extractLsb'_eq_self

/-- In canonical memory a word stored high byte first is read back. -/
theorem Memory.readWord_write_write {m : Memory} {a : Nat} (hm : m.wf = true)
    (ha : a < Config.memSize) (w : Word) :
    ((m.write a (highByte w)).write (a + 1) (lowByte w)).readWord a = w := by
  rw [Memory.readWord, Memory.read_write_same (Memory.wf_write _ hm ha),
    Memory.read_write_ne _ _ (Nat.ne_of_lt (Nat.lt_succ_self a)), Memory.read_write_same hm,
    highByte_append_lowByte]

theorem State.fetchSlot_le_lastFetch (s : State) : s.fetchSlot.toNat ≤ lastFetch := by
  unfold State.fetchSlot
  split
  · decide
  · omega

theorem State.withFetchWord_inBatch (s : State) (nbits w : Nat) :
    InBatch (s.withFetchWord nbits w) := by
  refine ⟨rfl, ?_⟩
  simp only [State.withFetchWord]
  split <;> omega

theorem State.withFetchWord_readWord {s : State} (hs : MemoryOk s) (w : Word) :
    (s.withFetchWord 16 w.toNat).mem.readWord s.fetchSlot.toNat = w := by
  have hlt : s.fetchSlot.toNat < Config.memSize := s.fetchSlot_le_lastFetch.trans_lt (by decide)
  have hw : BitVec.ofNat 16 (w.toNat % 2 ^ 16) = w := by
    rw [Nat.mod_eq_of_lt w.isLt, BitVec.ofNat_toNat, BitVec.setWidth_eq]
  simp only [State.withFetchWord, hw]
  exact Memory.readWord_write_write hs hlt w

/-- Settles O51: the placed word is what fetch reads at the slot, and the slot is in bounds. -/
theorem placedWordRunsNext : Obligations.PlacedWordRunsNext := by
  intro s w hs
  obtain ⟨hgt, -⟩ | ⟨-, t, ht, hstep⟩ := step_in_batch (s.withFetchWord_inBatch 16 w.toNat)
  · exact absurd hgt (Nat.not_lt.mpr s.fetchSlot_le_lastFetch)
  · have hword : (s.withFetchWord 16 w.toNat).mem.readWord
        (s.withFetchWord 16 w.toNat).pc.toNat = w := State.withFetchWord_readWord hs w
    rw [hword] at ht
    exact ⟨t, ht, hstep⟩

/-! ## The stack's halts (R182) -/

/-- Settles O17: the push of a full stack and the pop of an empty one fail. -/
theorem stackViolationsHalt : Obligations.StackViolationsHalt := by
  refine ⟨fun nnn s hsp => ?_, fun ign s hsp => ?_⟩
  · have hpush := (s.push_none s.pc).mpr hsp
    exact ⟨s.raise .stackOverflow 16, by simp [exec, execCall, hpush],
      s.raise_haltedBy .stackOverflow (by decide)⟩
  · have hpop := s.pop_none.mpr hsp
    exact ⟨s.raise .stackUnderflow 0, by simp [exec, execRet, hpop],
      s.raise_haltedBy .stackUnderflow (by decide)⟩

/-! ## One turn of the engine (R184, R186, R190; 70_reset_and_hazards.md R220) -/

theorem step_of_reset {s : State} (hes : s.es = .reset) : step s = .next (awaitLoad s) := by
  simp [step, hes]

theorem step_of_halted {s : State} (hes : s.es = .halted) : step s = .next (whileHalted s) := by
  simp [step, hes]

theorem step_of_terminated {s : State} (hes : s.es = .terminated) :
    step s = .next (whileTerminated s) := by
  simp [step, hes]

theorem step_of_batch_done {s : State} (hes : s.es = .running) (hb : s.budget = 0) :
    step s = .next (betweenBatches s) := by
  simp [step, hes, hb]

theorem State.takeInput_of_inputs {s : State} {inp : Input} {rest : List Input}
    (hin : s.inputs = inp :: rest) : s.takeInput = { s with inputs := rest } := by
  simp [State.takeInput, hin]

theorem step_poll {s : State} {keys : Keys} {quit frame : Bool} {rest : List Input}
    (h : AtPoll s) (hin : s.inputs = .poll keys quit frame :: rest) :
    step s = .next (State.poll { s with inputs := rest } keys quit frame) := by
  obtain ⟨hes, hb, hd⟩ := h
  rw [step_of_batch_done hes hb]
  simp [betweenBatches, hd, hin, State.takeInput]

theorem State.poll_sameProgram (s : State) (keys : Keys) (quit frame : Bool)
    (rest : List Input) : SameProgram s (State.poll { s with inputs := rest } keys quit frame) := by
  unfold State.poll
  split
  · constructor <;> rfl
  · split <;> constructor <;> rfl

theorem State.poll_noPresent (s : State) (keys : Keys) (quit frame : Bool)
    (rest : List Input) : NoPresent s (State.poll { s with inputs := rest } keys quit frame) := by
  unfold State.poll
  split
  · constructor <;> rfl
  · split <;> constructor <;> rfl

/-- A tick is the clamped decrement (R192). -/
theorem tick_toNat (b : Byte) : (tick b).toNat = b.toNat - 1 := by
  unfold tick
  split
  · next h => simp [h]
  · next h => bv_omega

/-- Settles O43: the poll is the start of a frame on the sampled state. -/
theorem frameEventStartsBatch : Obligations.FrameEventStartsBatch := fun s keys rest h hin =>
  ⟨_, step_poll h hin, rfl, tick_toNat s.dt, tick_toNat s.st, by simp [State.poll],
    rfl, Nat.le_add_left 1 _, h.1, rfl, s.poll_sameProgram .., s.poll_noPresent ..⟩

/-- Settles O44: QUIT is tested before FRAME, and without either KEY alone is written. -/
theorem pollSamplesKeysAndQuitsFirst : Obligations.PollSamplesKeysAndQuitsFirst := by
  intro s keys quit frame rest h hin hquiet
  have hsame := s.poll_sameProgram keys quit frame rest
  have hnone := s.poll_noPresent keys quit frame rest
  refine ⟨_, step_poll h hin, ?_⟩
  cases quit with
  | true => exact ⟨rfl, rfl, rfl, h.2.1, rfl, rfl, rfl, hsame, hnone⟩
  | false =>
    obtain rfl : frame = false := hquiet.resolve_left Bool.false_ne_true
    exact ⟨rfl, rfl, rfl, h.2.1, h.1, rfl, rfl, hsame, hnone⟩

/-- Settles O45: DIRTY is tested before any input is. -/
theorem dirtyBatchIsPresented : Obligations.DirtyBatchIsPresented := fun s hes hb hd =>
  have hpresent : betweenBatches s = s.present := if_pos hd
  ⟨s.present, hpresent ▸ step_of_batch_done hes hb, rfl, rfl, rfl, hes, hb, rfl, rfl, rfl, rfl, rfl,
    by constructor <;> rfl⟩

/-! ## Inputs without effect (R184, R186, R221) -/

theorem step_halted_poll {s : State} {keys : Keys} {quit frame : Bool} {rest : List Input}
    (hes : s.es = .halted) (hin : s.inputs = .poll keys quit frame :: rest) :
    step s = .next (if quit then State.terminate { s with inputs := rest }
      else { s with inputs := rest }) := by
  rw [step_of_halted hes]
  simp [whileHalted, hin, State.takeInput]

theorem step_terminated_ignores {s : State} {inp : Input} {rest : List Input}
    (hes : s.es = .terminated) (hin : s.inputs = inp :: rest) (hne : inp ≠ .reset) :
    step s = .next { s with inputs := rest } := by
  rw [step_of_terminated hes, ← State.takeInput_of_inputs hin]
  cases inp with
  | reset => exact absurd rfl hne
  | _ => simp [whileTerminated, hin]

/-- A load outside RESET is used up (assumption 15). -/
theorem step_ignores_load {s : State} {inp : Input} {rest : List Input}
    (h : AtPoll s ∨ s.es = .halted) (hin : s.inputs = inp :: rest)
    (hload : inp = .loadFail ∨ ∃ image, inp = .load image) :
    step s = .next { s with inputs := rest } := by
  rw [← State.takeInput_of_inputs hin]
  obtain ⟨hes, hb, hd⟩ | hes := h
  · rw [step_of_batch_done hes hb]
    obtain rfl | ⟨image, rfl⟩ := hload <;> simp [betweenBatches, hd, hin]
  · rw [step_of_halted hes]
    obtain rfl | ⟨image, rfl⟩ := hload <;> simp [whileHalted, hin]

/-- With nothing presented the engine waits in its state (assumption 2). -/
theorem step_waits {s : State} (h : AtPoll s ∨ s.es ≠ .running) (hin : s.inputs = []) :
    step s = .next s := by
  obtain ⟨hes, hb, hd⟩ | hne := h
  · rw [step_of_batch_done hes hb]
    simp [betweenBatches, hd, hin]
  · cases hes : s.es with
    | reset => rw [step_of_reset hes]; simp [awaitLoad, hin]
    | running => exact absurd hes hne
    | halted => rw [step_of_halted hes]; simp [whileHalted, hin]
    | terminated => rw [step_of_terminated hes]; simp [whileTerminated, hin]

/-- Settles O46, clause by clause. -/
theorem haltedAndTerminatedStandStill : Obligations.HaltedAndTerminatedStandStill := by
  refine ⟨fun s keys quit frame rest hes hin => ⟨_, step_halted_poll hes hin, ?_⟩,
    fun s inp rest => step_terminated_ignores, fun s inp rest => step_ignores_load,
    fun s keys quit frame rest hes hin => ?_, fun s => step_waits⟩
  · cases quit with
    | true => exact ⟨rfl, rfl, rfl, rfl, rfl, rfl, rfl, by constructor <;> rfl,
        by constructor <;> rfl⟩
    | false => exact ⟨hes, rfl, rfl, rfl, rfl, rfl, rfl, by constructor <;> rfl,
        by constructor <;> rfl⟩
  · rw [step_of_reset hes, ← State.takeInput_of_inputs hin]
    simp [awaitLoad, hin]

/-! ## The timers between two frames (R192, R195) -/

/-- The engine can still come to a frame without a RESET: neither HALTED nor TERMINATED. -/
def Awake (s : State) : Prop := s.es = .reset ∨ s.es = .running

/-- From `s` to `t` both timers stay, and TONE stays unless the engine stops. -/
structure KeepsTimers (s t : State) : Prop where
  dt : t.dt = s.dt
  st : t.st = s.st
  tone : Awake t → Awake s ∧ t.tone = s.tone

theorem not_awake_of_halted {s : State} (h : s.es = .halted) : ¬ Awake s := by simp [Awake, h]

theorem not_awake_of_terminated {s : State} (h : s.es = .terminated) : ¬ Awake s := by
  simp [Awake, h]

theorem KeepsTimers.ignore (s : State) : KeepsTimers s s.takeInput := ⟨rfl, rfl, fun h => ⟨h, rfl⟩⟩

theorem KeepsTimers.refl (s : State) : KeepsTimers s s := ⟨rfl, rfl, fun h => ⟨h, rfl⟩⟩

theorem KeepsTimers.terminate (s : State) (keys : Keys) :
    KeepsTimers s (State.terminate { s.takeInput with key := keys }) :=
  ⟨rfl, rfl, fun h => absurd h (not_awake_of_terminated rfl)⟩

theorem loadImage_keepsTimers {s : State} (hes : s.es = .reset) (image : List Byte) :
    KeepsTimers s (s.takeInput.loadImage image) := by
  unfold State.loadImage
  split <;> exact ⟨rfl, rfl, fun _ => ⟨.inl hes, rfl⟩⟩

theorem awaitLoad_keepsTimers {s : State} (hes : s.es = .reset)
    (hr : ∀ rest, s.inputs ≠ .reset :: rest) : KeepsTimers s (awaitLoad s) := by
  unfold awaitLoad
  split
  · exact .refl s
  · exact absurd ‹_› (hr _)
  · exact loadImage_keepsTimers hes _
  · exact ⟨rfl, rfl, fun _ => ⟨.inl hes, rfl⟩⟩
  · exact .ignore s

theorem whileHalted_keepsTimers {s : State} (hr : ∀ rest, s.inputs ≠ .reset :: rest) :
    KeepsTimers s (whileHalted s) := by
  unfold whileHalted
  split
  · exact .refl s
  · exact absurd ‹_› (hr _)
  · exact .ignore s
  · exact .ignore s
  · split
    · exact .terminate s s.key
    · exact .ignore s

theorem whileTerminated_keepsTimers {s : State} (hr : ∀ rest, s.inputs ≠ .reset :: rest) :
    KeepsTimers s (whileTerminated s) := by
  unfold whileTerminated
  split
  · exact .refl s
  · exact absurd ‹_› (hr _)
  all_goals exact .ignore s

theorem poll_keepsTimers (s : State) (keys : Keys) {quit frame : Bool}
    (h : ¬ (quit = false ∧ frame = true)) : KeepsTimers s (s.takeInput.poll keys quit frame) := by
  cases quit with
  | true => exact .terminate s keys
  | false =>
    cases frame with
    | true => exact absurd ⟨rfl, rfl⟩ h
    | false => exact ⟨rfl, rfl, fun h => ⟨h, rfl⟩⟩

theorem betweenBatches_keepsTimers {s : State} (hes : s.es = .running) (hb : s.budget = 0)
    (hf : ¬ StartsFrame s) (hr : ¬ TakesReset s) : KeepsTimers s (betweenBatches s) := by
  unfold betweenBatches
  split
  · exact ⟨rfl, rfl, fun h => ⟨h, rfl⟩⟩
  · next hd =>
    have hd := Bool.eq_false_of_not_eq_true hd
    split
    · exact .refl s
    · exact absurd ⟨fun _ => ⟨hb, hd⟩, _, ‹_›⟩ hr
    · exact .ignore s
    · exact .ignore s
    · next keys quit frame rest hin =>
      refine poll_keepsTimers s keys ?_
      rintro ⟨rfl, rfl⟩
      exact hf ⟨⟨hes, hb, hd⟩, keys, rest, hin⟩

/-- Outside a batch only a frame and RESET write a timer. -/
theorem engine_keepsTimers {s t : State} (hb : ¬ InBatch s) (hf : ¬ StartsFrame s)
    (hr : ¬ TakesReset s) (h : step s = .next t) : KeepsTimers s t := by
  have hnext : s.es ≠ .running → ∀ rest, s.inputs ≠ .reset :: rest := fun hne rest hin =>
    hr ⟨fun hes => absurd hes hne, rest, hin⟩
  rw [step_outside_batch hb] at h
  cases hes : s.es <;> rw [hes] at h <;> cases h
  case reset => exact awaitLoad_keepsTimers hes (hnext (by simp [hes]))
  case running =>
    exact betweenBatches_keepsTimers hes (not_not.mp fun hne => hb ⟨hes, hne⟩) hf hr
  case halted => exact whileHalted_keepsTimers (hnext (by simp [hes]))
  case terminated => exact whileTerminated_keepsTimers (hnext (by simp [hes]))

/-- An instruction of a batch leaves TONE alone unless it halts. -/
theorem step_in_batch_tone {s t : State} (hb : InBatch s) (h : step s = .next t) (ht : Awake t) :
    t.tone = s.tone := by
  have hne : t.es ≠ .halted := fun hes => not_awake_of_halted hes ht
  obtain ⟨-, hsame⟩ := instructionCostsOneBudgetUnit s t hb h hne
  exact hsame.tone

theorem between_tone {s t : State} (hf : ¬ StartsFrame s) (hr : ¬ TakesReset s)
    (h : step s = .next t) (ht : Awake t) : Awake s ∧ t.tone = s.tone := by
  by_cases hb : InBatch s
  · exact ⟨.inr hb.1, step_in_batch_tone hb h ht⟩
  · exact (engine_keepsTimers hb hf hr h).tone ht

/-- A step in a batch fails its fetch, or runs the instruction it fetched. -/
theorem step_in_batch_runs {s t : State} (hb : InBatch s) (h : step s = .next t) :
    t = fetchHalt s ∨ ∃ i u, fetch s = some i ∧ exec i s.advance = .next u ∧ t = u.spend := by
  obtain ⟨-, hs⟩ | ⟨hpc, u, hu, hs⟩ := step_in_batch hb <;> cases hs.symm.trans h
  · exact .inl rfl
  · exact .inr ⟨_, u, if_neg (Nat.not_lt.mpr hpc), hu, rfl⟩

theorem eq_setdt_of_mnemonic {i : Instr} (h : mnemonic i = "SETDT") : ∃ x, i = .setdt x := by
  cases i
  case setdt x => exact ⟨x, rfl⟩
  all_goals simp [mnemonic] at h

theorem eq_setst_of_mnemonic {i : Instr} (h : mnemonic i = "SETST") : ∃ x, i = .setst x := by
  cases i
  case setst x => exact ⟨x, rfl⟩
  all_goals simp [mnemonic] at h

/-- SETDT is the one instruction that writes DT (O58). -/
theorem between_dt {s t : State} (hf : ¬ StartsFrame s) (hr : ¬ TakesReset s)
    (hw : ¬ RunsOneOf (fun i => ∃ x, i = .setdt x) s) (h : step s = .next t) : t.dt = s.dt := by
  by_cases hb : InBatch s
  · obtain rfl | ⟨i, u, hi, hu, rfl⟩ := step_in_batch_runs hb h
    · rfl
    · obtain ⟨-, -, -, -, hdt, -⟩ := onlyTheirInstructionsWrite i _ u hu
      by_contra hne
      exact hw ⟨hb, i, hi, eq_setdt_of_mnemonic (hdt hne)⟩
  · exact (engine_keepsTimers hb hf hr h).dt

/-- SETST is the one instruction that writes ST (O58). -/
theorem between_st {s t : State} (hf : ¬ StartsFrame s) (hr : ¬ TakesReset s)
    (hw : ¬ RunsOneOf (fun i => ∃ x, i = .setst x) s) (h : step s = .next t) : t.st = s.st := by
  by_cases hb : InBatch s
  · obtain rfl | ⟨i, u, hi, hu, rfl⟩ := step_in_batch_runs hb h
    · rfl
    · obtain ⟨-, -, -, -, -, hst, -⟩ := onlyTheirInstructionsWrite i _ u hu
      by_contra hne
      exact hw ⟨hb, i, hi, eq_setst_of_mnemonic (hst hne)⟩
  · exact (engine_keepsTimers hb hf hr h).st

/-! ## The timers over a run (R192, R195, R196) -/

/-- What a frame carries from `p` frames to `p + 1`, and every other step of the run keeps, is
carried on by the `k` frames of the run. -/
theorem FrameRun.invariant {writers : Instr → Prop} {P : Nat → State → Prop}
    (hframe : ∀ {p s t}, StartsFrame s → step s = .next t → P p s → P (p + 1) t)
    (hbetween : ∀ {p s t}, ¬ StartsFrame s → ¬ TakesReset s → ¬ RunsOneOf writers s →
      step s = .next t → P p s → P p t)
    {k p : Nat} {s t : State} (hrun : FrameRun writers k s t) (hs : P p s) : P (k + p) t := by
  induction hrun generalizing p with
  | here => rwa [Nat.zero_add]
  | frame hf h _ ih =>
    rw [Nat.add_assoc, Nat.add_comm 1]
    exact ih (hframe hf h hs)
  | between hf hr hw h _ ih => exact ih (hbetween hf hr hw h hs)

/-- A frame takes one off each timer, and TONE tells whether ST is left above 0 (O43). -/
theorem frame_timers {s t : State} (hf : StartsFrame s) (h : step s = .next t) :
    t.dt.toNat = s.dt.toNat - 1 ∧ t.st.toNat = s.st.toNat - 1 ∧
      (t.tone = true ↔ 0 < t.st.toNat) := by
  obtain ⟨hpoll, keys, rest, hin⟩ := hf
  obtain ⟨t', ht', -, hdt, hst, htone, -⟩ := frameEventStartsBatch s keys rest hpoll hin
  cases ht'.symm.trans h
  exact ⟨hdt, hst, htone.trans (by bv_omega)⟩

/-- DT after `p` frames, from `d` at the start. -/
def DtAfter (d p : Nat) (s : State) : Prop := s.dt.toNat = d - p

/-- ST after `p` frames, from `d` at the start, and TONE as the last of them left it. -/
def StAfter (d p : Nat) (s : State) : Prop :=
  s.st.toNat = d - p ∧ (0 < p → Awake s → (s.tone = true ↔ p < d))

theorem dtAfter_frame {d p : Nat} {s t : State} (hf : StartsFrame s) (h : step s = .next t)
    (hs : DtAfter d p s) : DtAfter d (p + 1) t := by
  obtain ⟨hdt, -, -⟩ := frame_timers hf h
  rw [DtAfter, hdt, hs, Nat.sub_sub]

theorem dtAfter_between {d p : Nat} {s t : State} (hf : ¬ StartsFrame s) (hr : ¬ TakesReset s)
    (hw : ¬ RunsOneOf (fun i => ∃ x, i = .setdt x) s) (h : step s = .next t)
    (hs : DtAfter d p s) : DtAfter d p t :=
  (congrArg BitVec.toNat (between_dt hf hr hw h)).trans hs

theorem stAfter_frame {d p : Nat} {s t : State} (hf : StartsFrame s) (h : step s = .next t)
    (hs : StAfter d p s) : StAfter d (p + 1) t := by
  obtain ⟨-, hst, htone⟩ := frame_timers hf h
  have hleft : t.st.toNat = d - (p + 1) := by rw [hst, hs.1, Nat.sub_sub]
  exact ⟨hleft, fun _ _ => by rw [htone, hleft, Nat.sub_pos_iff_lt]⟩

theorem stAfter_between {d p : Nat} {s t : State} (hf : ¬ StartsFrame s) (hr : ¬ TakesReset s)
    (hw : ¬ RunsOneOf (fun i => ∃ x, i = .setst x) s) (h : step s = .next t)
    (hs : StAfter d p s) : StAfter d p t := by
  refine ⟨(congrArg BitVec.toNat (between_st hf hr hw h)).trans hs.1, fun hp ht => ?_⟩
  obtain ⟨hawake, htone⟩ := between_tone hf hr h ht
  rw [htone]
  exact hs.2 hp hawake

/-- Settles O50: a frame is one tick, and no other step of the run writes the timer, nor TONE unless
the engine stops. -/
theorem timersDecayToZero : Obligations.TimersDecayToZero := by
  refine ⟨fun k s t hrun => ?_, fun k s t hrun => ?_⟩
  · exact hrun.invariant (P := DtAfter s.dt.toNat) (p := 0) dtAfter_frame dtAfter_between rfl
  · obtain ⟨hst, htone⟩ := hrun.invariant (P := StAfter s.st.toNat) (p := 0) stAfter_frame
      stAfter_between ⟨rfl, fun h => absurd h (Nat.lt_irrefl 0)⟩
    exact ⟨hst, fun hk hes => htone hk (.inr hes)⟩

end Sys2Proof.Machine
end

section
/-!
Reset and load (spec/70_reset_and_hazards.md): RESET restores every value of 10_state.md R37, and a
load writes the program region of memory and nothing else of the CORE.
-/

namespace Sys2Proof.Machine

/-! ## RESET (R220) -/

/-- Every engine state runs the reset sequence on a RESET outside a batch (D29). -/
theorem step_reset_event {s : State} {rest : List Input}
    (h : s.es = .running → s.budget = 0 ∧ s.dirty = false) (hin : s.inputs = .reset :: rest) :
    step s = .next (State.resetSequence { s with inputs := rest }) := by
  rw [← State.takeInput_of_inputs hin]
  cases hes : s.es with
  | reset => rw [step_of_reset hes]; simp [awaitLoad, hin]
  | running =>
    obtain ⟨hb, hd⟩ := h hes
    rw [step_of_batch_done hes hb]
    simp [betweenBatches, hd, hin]
  | halted => rw [step_of_halted hes]; simp [whileHalted, hin]
  | terminated => rw [step_of_terminated hes]; simp [whileTerminated, hin]

@[simp] theorem State.reg_resetSequence (s : State) (r : Nibble) : s.resetSequence.reg r = 0#8 :=
  Vector.getElem_replicate _

theorem State.stack_resetSequence (s : State) (k : Fin 16) :
    s.resetSequence.stack[k.val] = 0#16 :=
  Vector.getElem_replicate _

/-- Settles O47: the next state is the reset sequence's, from each of the engine states. -/
theorem resetEventRestoresResetValues : Obligations.ResetEventRestoresResetValues :=
  fun _ _ h hin => ⟨_, step_reset_event h hin, State.reg_resetSequence _, rfl, rfl, rfl,
    State.stack_resetSequence _, rfl, rfl, fun _ => rfl, Framebuffer.pixel_blank, rfl, rfl, rfl,
    rfl, rfl, rfl, rfl, rfl, rfl⟩

/-! ## What a load makes of memory (R221, R222) -/

/-- Above the font region the reset contents are 0x00, so a cleared program region is all zero. -/
theorem Memory.read_clearFrom_programBase {a : Nat} (m : Memory) (ha : Config.programBase ≤ a) :
    (m.clearFrom Config.programBase).read a = 0#8 := by
  have hfont : ¬ a < Config.fontEnd :=
    Nat.not_lt.mpr (Nat.le_trans (by decide) ha)
  rw [Memory.read_clearFrom, if_neg (Nat.not_lt.mpr ha), Memory.unlisted, if_neg hfont]

theorem Memory.read_clearFrom_below {a b : Nat} (m : Memory) (hb : b < a) :
    (m.clearFrom a).read b = m.read b := by
  rw [Memory.read_clearFrom, if_pos hb]

/-! ## A failed load (R222, R223) -/

theorem State.loadImage_too_long {s : State} {image : List Byte} (h : image.length > 0xDFF) :
    s.loadImage image = s.failLoad :=
  if_neg (Nat.not_le.mpr h)

theorem step_failed_load {s : State} {inp : Input} {rest : List Input} (hes : s.es = .reset)
    (hin : s.inputs = inp :: rest)
    (hfail : inp = .loadFail ∨ ∃ image : List Byte, inp = .load image ∧ image.length > 0xDFF) :
    step s = .next (State.failLoad { s with inputs := rest }) := by
  rw [step_of_reset hes, ← State.takeInput_of_inputs hin]
  obtain rfl | ⟨image, rfl, hlen⟩ := hfail
  · simp [awaitLoad, hin]
  · simp [awaitLoad, hin, State.loadImage_too_long hlen]

/-- Settles O49: the program region is cleared, and nothing is placed in it. -/
theorem failedLoadStartsEmpty : Obligations.FailedLoadStartsEmpty :=
  fun s _ _ hes hin hfail => ⟨_, step_failed_load hes hin hfail, rfl, rfl, rfl,
    fun _ => s.mem.read_clearFrom_programBase, fun _ => s.mem.read_clearFrom_below, rfl⟩

/-! ## A load (R221, R222) -/

theorem State.loadImage_fits {s : State} {image : List Byte} (h : image.length ≤ 0xDFF) :
    s.loadImage image =
      { s with
        mem := (s.mem.clearFrom Config.programBase).place Config.programBase image
        loadFailed := false
        es := .running } :=
  if_pos h

theorem step_load {s : State} {image : List Byte} {rest : List Input} (hes : s.es = .reset)
    (hin : s.inputs = .load image :: rest) :
    step s = .next (State.loadImage { s with inputs := rest } image) := by
  rw [step_of_reset hes, ← State.takeInput_of_inputs hin]
  simp [awaitLoad, hin]

/-- MaxImage is the largest length with `0x200 + length ≤ 0xFFF`. -/
theorem programBase_add_le_memSize {n : Nat} (h : n ≤ 0xDFF) :
    Config.programBase + n ≤ Config.memSize :=
  (Nat.add_le_add_left h 0x200).trans (by decide)

/-- Settles O48: the image is placed over the cleared program region, byte by byte inside it. -/
theorem loadPlacesImage : Obligations.LoadPlacesImage := by
  intro s image rest hes hs hin hlen
  have hstep := step_load hes hin
  rw [State.loadImage_fits hlen] at hstep
  refine ⟨_, hstep, rfl, rfl, rfl, fun k hk => ?_, fun a ha => ?_, fun a ha => ?_, rfl⟩
  · exact Memory.read_place_inside (Memory.wf_clearFrom _ hs) (programBase_add_le_memSize hlen) hk
  · exact (Memory.read_place_outside _ image (.inr ha)).trans
      (s.mem.read_clearFrom_programBase ((Nat.le_add_right _ _).trans ha))
  · exact (Memory.read_place_outside _ image (.inl ha)).trans (s.mem.read_clearFrom_below ha)

end Sys2Proof.Machine
end
